-- ==== Sys2Proof/Word.lean ====
section
/-! DEFINITION. The byte and word types of the ZN4208 and their plainest arithmetic. -/

namespace Sys2Proof

/-- The smallest addressable unit (12_formats.md: offsets and sizes are in bytes). -/
abbrev Byte := BitVec 8

/-- An address in a master's memory (R72, R167): 64 bits. -/
abbrev Addr64 := BitVec 64

/-- A channel sample of the digitizer link (R125): 16 bits, offset binary. -/
abbrev Sample := BitVec 16

end Sys2Proof
end

