-- ==== Sys2Proof/Config.lean ====
section
/-! DEFINITION. What is fixed for the part (00_scope.md, Capacities at a Glance) and the free values. -/

namespace Sys2Proof.Config

/-- Bytes of one capture block (R25). -/
def blockBytes : Nat := 4194304
/-- Capture blocks (R25). -/
def blockCount : Nat := 8192
/-- Bytes of capture memory (R140). -/
def memoryBytes : Nat := 34359738368
/-- Bytes of one ECC granule (R140). -/
def granuleBytes : Nat := 32
/-- Largest burst in bytes (R141). -/
def burstBytes : Nat := 512
/-- Entries the catalog holds (R1). -/
def catalogEntries : Nat := 4096
/-- The last record number (R2). -/
def lastRecordNumber : Nat := 4294967294
/-- Marks kept per record (R9). -/
def marksKept : Nat := 15
/-- Where the mark overflow count stops (R9). -/
def markOverflowMax : Nat := 255
/-- Marks the aligner's queue holds (R111). -/
def markQueueMax : Nat := 16
/-- Entries a hold may span (R47). -/
def holdSpan : Nat := 256
/-- Bytes of a port's read aperture (R57). -/
def apertureBytes : Nat := 68719476736
/-- Largest window (R57). -/
def windowMax : Nat := 34359738368
/-- Bytes of frame storage of the intake buffer (R130). -/
def intakeBytes : Nat := 1048576
/-- Cuts the intake buffer holds (R130). -/
def cutsMax : Nat := 16
/-- Bytes of one sixteenth of the frame storage (R134). -/
def waterStep : Nat := 65536
/-- Buffers of the archive buffer list (R72). -/
def bufferListMax : Nat := 64
/-- Archive buffer size limits and granularity (R72). -/
def bufferMin : Nat := 4096
def bufferMax : Nat := 4194304
/-- Largest payload of a DATA archive frame (R76). -/
def dataPayloadMax : Nat := 65536
/-- Largest port link transaction (R168). -/
def linkBytes : Nat := 256
/-- Largest value of a 64-bit counter, where it stays (R178). -/
def counterMax : Nat := 18446744073709551615
/-- Refreshes owed at most (R144). -/
def debtMax : Nat := 9
/-- Bytes of a port's control window (R187). -/
def controlBytes : Nat := 16384

/-- Model time: a step on an empty queue is a tenth of a microsecond (DESIGN CHOICE, log entry 3). -/
def ticksPerMicrosecond : Nat := 10
/-- 3.9 us between refreshes (R144), in ticks. -/
def refreshTicks : Nat := 39
/-- One millisecond (R52), in ticks. -/
def ticksPerMillisecond : Nat := 10000
/-- 100 us for a window read (R65), in ticks. -/
def readTimeoutTicks : Nat := 1000

/-- A frame index the spec does not state: the newest frame index written when no frame of the session has
been written (R99, R191), and the stamped frame index when no frame has been received (R120). Nothing
constrains it (log entry 8). -/
opaque freeFrameIndex : Nat → BitVec 64

/-- The frame index the spec does not state for a frame that would follow the last index of R127, 2^64 - 1: a function of
the number the count would reach. Nothing constrains it (log entry 43). -/
opaque pastLastIndex : Nat → BitVec 64

/-- The index of the frame a count from R125 reaches: the number itself while it is a 64-bit frame index, a free value past
them (log entry 43). -/
def frameIndex (n : Nat) : Nat := if n < 18446744073709551616 then n else (pastLastIndex n).toNat

end Sys2Proof.Config
end

