-- ==== Sys2Proof/Syntax.lean ====
section
/-! DEFINITION. The commands of the ZN4208: one constructor per row of spec/opcode_table.json. -/

namespace Sys2Proof

/-- The two ports (00_scope.md, Conventions). -/
inductive Port where
  | p0
  | p1
deriving DecidableEq, Repr

/-- "The other port" is the port that is not p (00_scope.md, Conventions). -/
def Port.other : Port → Port
  | .p0 => .p1
  | .p1 => .p0

/-- The trigger link input that gave a trigger (R109). -/
inductive TrigSource where
  | main
  | aux
deriving DecidableEq, Repr

/-- A trigger link message (R109): an ALIGNED one carries a frame index and a fine offset, a RAW one a fine
offset only. -/
inductive TrigMessage where
  | aligned (source : TrigSource) (frame : BitVec 64) (fine : Byte)
  | raw (source : TrigSource) (fine : Byte)
deriving DecidableEq, Repr

/-- A bit of the stacked DRAM that has flipped: a bit of one of the 2^30 granules of capture memory (R140), 0 to 255 its data
bits, 256 to 511 bits of its code word (R146; DESIGN CHOICE, log entry 5: the spec does not give the code word's width). -/
structure Strike where
  granule : Fin 1073741824
  bit : Fin 512
deriving DecidableEq, Repr

/-- The digitizer link's group in transfer (R125, R135): the index of its first frame, which its header carries, and how
many of its 32 frames have arrived. -/
structure GroupInTransfer where
  first : BitVec 64
  arrived : Fin 32
deriving DecidableEq, Repr

/-- The commands. Each docstring names the rule of the table's row. -/
inductive Instr where
  /-- POWER_ON (R29, R4, R44, R69, R91, R111, R138, R151, R152, R167, R178, R182). -/
  | powerOn
  /-- CALIBRATION_SUCCESS (R149). -/
  | calibrationSuccess
  /-- CALIBRATION_FAILURE (R150). -/
  | calibrationFailure
  /-- REFRESH_DUE (R144, R145). -/
  | refreshDue
  /-- REFRESH_DONE (R144). -/
  | refreshDone
  /-- FRAME_GROUP (R125, R127): the index of the first frame and 32 frames of 8 samples, channel 0 first. -/
  | frameGroup (first : BitVec 64) (frames : Vector (Vector Sample 8) 32)
  /-- LINK_DOWN (R126). -/
  | linkDown
  /-- LINK_UP (R126). -/
  | linkUp
  /-- TRIGGER_MESSAGE (R109). -/
  | triggerMessage (m : TrigMessage)
  /-- WRITER_TAKE_ITEM (R94). -/
  | writerTakeItem
  /-- WRITER_BURST_DONE (R94), with the bits of the DRAM that have flipped by then. -/
  | writerBurstDone (strikes : List Strike)
  /-- WAITING_REQUEST_OFFER (R35). -/
  | waitingRequestOffer
  /-- ENTRY_START (R75). -/
  | entryStart
  /-- ARCHIVE_BURST_DONE (R79), with the bits of the DRAM that have flipped by then. -/
  | archiveBurstDone (strikes : List Strike)
  /-- ARCHIVE_WRITE_ACK (R81) of the n-th write issued and not yet answered, 0 the oldest. -/
  | archiveWriteAck (n : Nat)
  /-- LINK_WRITE_ERROR (R89) for the n-th write issued and not yet answered, 0 the oldest. -/
  | linkWriteError (n : Nat)
  /-- FLUSH_TIMER_EXPIRY (R84). -/
  | flushTimerExpiry
  /-- WINDOW_READ (R58): an aperture address and a length of 1 to 256 bytes. -/
  | windowRead (p : Port) (addr len : Nat)
  /-- WINDOW_READ_BURST_DONE (R63), with the bits of the DRAM that have flipped by then. -/
  | windowReadBurstDone (strikes : List Strike)
  /-- READ_TIMEOUT (R65) of the n-th window read of the port in flight, 0 the oldest. -/
  | readTimeout (p : Port) (n : Nat)
  /-- APERTURE_WRITE (R66). -/
  | apertureWrite (p : Port) (addr : Nat) (bytes : List Byte)
  /-- HOLD_EXPIRY (R52). -/
  | holdExpiry (p : Port) (slot : Fin 16)
  /-- REQUEST_TAKE (R170). -/
  | requestTake (p : Port)
  /-- REQUEST_TAIL_WRITE (R169): a 4-byte write of the register. -/
  | requestTailWrite (p : Port) (value : BitVec 32)
  /-- COMPLETION_HEAD_WRITE (R169): a 4-byte write of the register. -/
  | completionHeadWrite (p : Port) (value : BitVec 32)
  /-- PORT_CONTROL_WRITE (R169): a 4-byte write of the register. -/
  | portControlWrite (p : Port) (value : BitVec 32)
  /-- PORT_STATUS_WRITE (R169): a 4-byte write of the register. -/
  | portStatusWrite (p : Port) (value : BitVec 32)
  /-- CONTROL_WINDOW_WRITE (R169, R187): a write of 1 to 256 bytes at a control-window offset. -/
  | controlWindowWrite (p : Port) (off : Nat) (bytes : List Byte)
  /-- INTERRUPT_WRITE_ERROR (R174). -/
  | interruptWriteError (p : Port)
  /-- PORT_RESET (R176, R177). -/
  | portReset (p : Port)
  /-- DESCRIBE (R175): the port unit takes the DESCRIBE its port has in hand; so for each request below. -/
  | describe (p : Port)
  /-- QUERY_SPAN (R22). -/
  | querySpan (p : Port)
  /-- QUERY_RECORD (R23). -/
  | queryRecord (p : Port)
  /-- QUERY_MARKS (R24). -/
  | queryMarks (p : Port)
  /-- PLACE_HOLD (R47). -/
  | placeHold (p : Port)
  /-- RENEW_HOLD (R50). -/
  | renewHold (p : Port)
  /-- RELEASE_HOLD (R51). -/
  | releaseHold (p : Port)
  /-- QUERY_HOLDS (R55). -/
  | queryHolds (p : Port)
  /-- BIND_ARCHIVE (R71). -/
  | bindArchive (p : Port)
  /-- UNBIND_ARCHIVE (R87). -/
  | unbindArchive (p : Port)
  /-- SUPPLY_BUFFER (R72). -/
  | supplyBuffer (p : Port)
  /-- ARM (R118). -/
  | arm (p : Port)
  /-- DISARM (R119). -/
  | disarm (p : Port)
  /-- FORCE_TRIGGER (R120). -/
  | forceTrigger (p : Port)
  /-- CONFIGURE (R154). -/
  | configure (p : Port)
  /-- START (R157). The operand is the digitizer link's group in transfer when START is taken (R135), if any. -/
  | start (p : Port) (inTransfer : Option GroupInTransfer)
  /-- STOP (R160). -/
  | stop (p : Port)
  /-- ABORT (R164). -/
  | abort (p : Port)
  /-- RESET_PART (R166). -/
  | resetPart (p : Port)
  /-- READ_COUNTERS (R181). -/
  | readCounters (p : Port)
  /-- READ_FAULTS (R185). -/
  | readFaults (p : Port)
  /-- CLEAR_FAULTS (R185). -/
  | clearFaults (p : Port)
  /-- SET_FAULT_ENABLE (R186). -/
  | setFaultEnable (p : Port)
deriving DecidableEq, Repr

end Sys2Proof
end

