-- ==== Sys2Proof/WellFormed.lean ====
section
/-! DEFINITION. Which commands are transactions and messages of the spec. -/

namespace Sys2Proof

/-- A link transaction carries 1 to 256 bytes (R168). -/
def linkLength (n : Nat) : Bool := decide (1 ≤ n) && decide (n ≤ Config.linkBytes)

/-- An aperture address is a byte offset from 0 to 68 719 476 735 (R58). -/
def apertureAddress (a : Nat) : Bool := decide (a < Config.apertureBytes)

/-- The well-formed commands. -/
def Instr.wf : Instr → Bool
  | .powerOn => true
  | .calibrationSuccess => true
  | .calibrationFailure => true
  | .refreshDue => true
  | .refreshDone => true
  | .frameGroup _ _ => true
  | .linkDown => true
  | .linkUp => true
  | .triggerMessage _ => true
  | .writerTakeItem => true
  | .writerBurstDone _ => true
  | .waitingRequestOffer => true
  | .entryStart => true
  | .archiveBurstDone _ => true
  | .archiveWriteAck _ => true
  | .linkWriteError _ => true
  | .flushTimerExpiry => true
  | .windowRead _ a n => apertureAddress a && linkLength n
  | .windowReadBurstDone _ => true
  | .readTimeout _ _ => true
  | .apertureWrite _ a bs => apertureAddress a && linkLength bs.length
  | .holdExpiry _ _ => true
  | .requestTake _ => true
  | .requestTailWrite _ _ => true
  | .completionHeadWrite _ _ => true
  | .portControlWrite _ _ => true
  | .portStatusWrite _ _ => true
  | .controlWindowWrite _ _ bs => linkLength bs.length
  | .interruptWriteError _ => true
  | .portReset _ => true
  | .describe _ => true
  | .querySpan _ => true
  | .queryRecord _ => true
  | .queryMarks _ => true
  | .placeHold _ => true
  | .renewHold _ => true
  | .releaseHold _ => true
  | .queryHolds _ => true
  | .bindArchive _ => true
  | .unbindArchive _ => true
  | .supplyBuffer _ => true
  | .arm _ => true
  | .disarm _ => true
  | .forceTrigger _ => true
  | .configure _ => true
  | .start _ _ => true
  | .stop _ => true
  | .abort _ => true
  | .resetPart _ => true
  | .readCounters _ => true
  | .readFaults _ => true
  | .clearFaults _ => true
  | .setFaultEnable _ => true

end Sys2Proof
end

