-- ==== Sys2Proof/Decode.lean ====
section
/-! DEFINITION. The command that a word spells by the bits of spec/opcode_table.json. -/

namespace Sys2Proof

/-- No row of spec/opcode_table.json gives bits ("fields" is empty in all 53 rows and none has "fixed"), so no
word spells a command (log entry 33). -/
def decodeTableWord (_nbits _w : Nat) : Option Instr := none

end Sys2Proof
end

