-- ==== Sys2Proof/Machine/State.lean ====
section
/-! DEFINITION. Everything the spec gives the ZN4208 to hold, as plain data, and its value after power-on. -/

namespace Sys2Proof.Machine

/-! ## Shared names -/

/-- The source of a slot (R6): channel n, or pair k differential. -/
inductive SlotSource where
  | channel (n : Fin 8)
  | pair (k : Fin 4)
deriving DecidableEq, Repr

/-- The coding of a slot (R6). -/
inductive Coding where
  | signed
  | unsigned
deriving DecidableEq, Repr

/-- A slot descriptor (R6). -/
structure SlotDesc where
  source : SlotSource
  coding : Coding
deriving DecidableEq, Repr

/-- Capture mode (R6, R153 field 1). -/
inductive CaptureMode where
  | segmented
  | continuous
deriving DecidableEq, Repr

/-- Retention (R6, R153 field 14). -/
inductive Retention where
  | lossless
  | latest
deriving DecidableEq, Repr

/-- Pair mode (R153 field 2). -/
inductive PairMode where
  | separate
  | differential
deriving DecidableEq, Repr

/-- Rearm (R153 field 9). -/
inductive Rearm where
  | auto
  | single
deriving DecidableEq, Repr

/-- Early-trigger (R153 field 10). -/
inductive Early where
  | accept
  | ignore
deriving DecidableEq, Repr

/-- Arbiter order (R142, R153 field 17). -/
inductive ArbOrder where
  | normal
  | viewFirst
deriving DecidableEq, Repr

/-- Start alignment (R135, R153 field 20). -/
inductive StartAlign where
  | group
  | frame
deriving DecidableEq, Repr

/-- The configuration record (R153), twenty fields. -/
structure ConfigRec where
  mode : CaptureMode
  pairModes : Vector PairMode 4
  enables : Vector Bool 8
  codings : Vector Coding 8
  pre : Nat
  post : Nat
  span : Nat
  holdoff : Nat
  rearm : Rearm
  early : Early
  rawLatency : Nat
  markMain : Bool
  markAux : Bool
  archReq : Bool
  retention : Retention
  hiMark : Nat
  loMark : Nat
  order : ArbOrder
  flush : Nat
  buffersLow : Nat
  startAlign : StartAlign
deriving DecidableEq, Repr

/-- The stamp kind of a trigger (R8, R110). -/
inductive StampKind where
  | aligned
  | raw
deriving DecidableEq, Repr

/-- A stamped trigger (R110). -/
structure Trigger where
  frame : Nat
  fine : Byte
  source : TrigSource
  stamp : StampKind
deriving DecidableEq, Repr

/-- A mark (R9). -/
structure Mark where
  frame : Nat
  fine : Byte
  source : TrigSource
deriving DecidableEq, Repr

/-- The cause of a cut and of its GAP entry (R11, R130). -/
inductive CutCause where
  | intakeFull
  | linkIndex
  | starvedBlocks
  | starvedCatalog
deriving DecidableEq, Repr

/-- A cut (R130). `closed` is its state CLOSED. -/
structure Cut where
  first : Nat
  count : Nat
  cause : CutCause
  closed : Bool
deriving DecidableEq, Repr

/-- An item of the intake buffer (R130). -/
inductive Item where
  | frame (idx : Nat) (bytes : List Byte)
  | cut (c : Cut)
deriving DecidableEq, Repr

/-! ## Record catalog -/

/-- Entry state (R5): OPEN, SEALED, ARCHIVED, LOST, RETIRED. -/
inductive EntryState where
  | opened
  | sealed
  | archived
  | lost
  | retired
deriving DecidableEq, Repr

/-- The trigger field of a SEGMENTED entry (R8). -/
structure TriggerField where
  frame : Nat
  fine : Byte
  source : TrigSource
  stamp : StampKind
  captured : Nat
deriving DecidableEq, Repr

/-- The fields of a DATA entry (R6). -/
structure DataFields where
  mode : CaptureMode
  retention : Retention
  layout : List SlotDesc
  frameSize : Nat
  first : Nat
  frames : Nat
  firstBlock : Option Nat
  blockCount : Nat
  startOffset : Nat
  trigger : Option TriggerField
  marks : List Mark
  markOverflow : Nat
  shortPretrigger : Bool
  truncated : Bool
  afterGap : Bool
  damaged : Bool
  resumedArchive : Bool
deriving DecidableEq, Repr

/-- The fields of a GAP entry (R11). -/
structure GapFields where
  first : Nat
  count : Nat
  cause : CutCause
deriving DecidableEq, Repr

/-- The kind of an entry with the fields of that kind (R5). -/
inductive Body where
  | data (d : DataFields)
  | gap (g : GapFields)
deriving DecidableEq, Repr

/-- A catalog entry: the common fields of R5 and its kind's. -/
structure Entry where
  number : Nat
  state : EntryState
  session : BitVec 32
  archReq : Bool
  body : Body
deriving DecidableEq, Repr

/-- The record catalog (R1 to R3), head first. -/
structure Catalog where
  entries : List Entry
  next : Nat
  epoch : BitVec 16
  session : BitVec 32
deriving DecidableEq, Repr

/-! ## Block map -/

/-- Block state (R26). -/
inductive BlockState where
  | free
  | filling
  | stored
  | faulty
deriving DecidableEq, Repr

/-- A block table entry (R26). -/
structure Block where
  state : BlockState
  next : Option Nat
  owner : Option Nat
  held : Nat
  suspect : Bool
deriving DecidableEq, Repr

/-- The occasion of a reclaim (R39). -/
inductive Occasion where
  | blockNeed
  | catalogFull
deriving DecidableEq, Repr

/-- The last-reclaim record (R39). `lost` is the resulting state LOST, clear for RETIRED. -/
structure LastReclaim where
  number : Nat
  occasion : Occasion
  blockCount : Nat
  lost : Bool
  revoked : Nat
  frame : Nat
deriving DecidableEq, Repr

/-- The block map (R26, R28, R39). -/
structure BlockMap where
  table : Vector Block 8192
  free : List Nat
  faulty : Nat
  last : Option LastReclaim
deriving DecidableEq, Repr

/-! ## Hold table -/

/-- The kind of a hold (R44). -/
inductive HoldKind where
  | firm
  | yielding
deriving DecidableEq, Repr

/-- A window (R57). -/
structure Window where
  base : Nat
  size : Nat
deriving DecidableEq, Repr

/-- An ACTIVE hold (R44). `ticks` is the part of the current millisecond its timer has run (log entry 3). -/
structure Hold where
  tag : BitVec 16
  kind : HoldKind
  first : Nat
  last : Nat
  interval : Nat
  remaining : Nat
  ticks : Nat
  window : Option Window
deriving DecidableEq, Repr

/-- A run of a translated read (R63): consecutive capture addresses in one block of one record. `epoch` is the
epoch of the translation (R68). -/
structure ReadRun where
  addr : Nat
  len : Nat
  record : Nat
  epoch : BitVec 16
  data : Option (List Byte)
deriving DecidableEq, Repr

/-- A piece of a read's answer: zero bytes (R62) or a run (R63). -/
inductive Piece where
  | zeros (n : Nat)
  | run (r : ReadRun)
deriving DecidableEq, Repr

/-- A window read in flight (R63), with the ticks since its arrival (R65). -/
structure ReadInFlight where
  id : Nat
  addr : Nat
  len : Nat
  pieces : List Piece
  age : Nat
deriving DecidableEq, Repr

/-- A port's side of the hold table: 16 slots (none is FREE), tag counter (R45), reads in flight (R63). -/
structure HoldBank where
  slots : Vector (Option Hold) 16
  tagCounter : BitVec 16
  reads : List ReadInFlight
  nextRead : Nat
deriving DecidableEq, Repr

/-! ## Requests -/

/-- The PLACE_HOLD parameters as the entry gives them (R188). -/
structure HoldArgs where
  first : Nat
  last : Nat
  kind : Nat
  interval : Nat
  window : Option Window
deriving DecidableEq, Repr

/-- The CONFIGURE parameters as the entry gives them (R189). -/
structure RawConfig where
  mode : Nat
  pairModes : Nat
  enables : Nat
  codings : Nat
  pre : Nat
  post : Nat
  span : Nat
  rawLatency : Nat
  holdoff : Nat
  rearm : Nat
  early : Nat
  markEnables : Nat
  archReq : Nat
  retention : Nat
  hiMark : Nat
  loMark : Nat
  order : Nat
  flush : Nat
  buffersLow : Nat
  startAlign : Nat
deriving DecidableEq, Repr

/-- A request that has passed the checks of R171, with the parameters of R188. -/
inductive Request where
  | describe
  | querySpan
  | queryRecord (number : Nat)
  | queryMarks (number : Nat)
  | placeHold (a : HoldArgs)
  | renewHold (slot : Nat) (tag : BitVec 16)
  | releaseHold (slot : Nat) (tag : BitVec 16)
  | queryHolds (upper : Bool)
  | bindArchive
  | unbindArchive
  | supplyBuffer (addr : Addr64) (size : Nat)
  | arm
  | disarm
  | forceTrigger
  | configure (c : RawConfig)
  | start (generation : BitVec 32) (discard : Bool)
  | stop
  | abort
  | resetPart
  | readCounters (group : Nat) (clear : Bool)
  | readFaults
  | clearFaults (units : BitVec 8)
  | setFaultEnable (unit : Nat) (mask : BitVec 8)
deriving DecidableEq, Repr

/-- A request passed to its owning block (R170). `live` is clear once a port reset has discarded the request in
hand, so that its completion is lost (R177). -/
structure Passed where
  port : Port
  tag : BitVec 16
  request : Request
  live : Bool
deriving DecidableEq, Repr

/-! ## Archive engine -/

/-- Engine state (R70). -/
inductive EngineState where
  | unbound
  | idle
  | sending
  | waitBuffer
  | waitSlot
  | faulted
deriving DecidableEq, Repr

/-- An archive buffer (R72). -/
structure Buffer where
  addr : Addr64
  size : Nat
deriving DecidableEq, Repr

/-- Which frame of the entry at the send position comes next (R76). -/
inductive Stage where
  | header
  | data
  | endFrame
  | whole
deriving DecidableEq, Repr

/-- A DATA frame placed in the current buffer whose payload is being read and written (R77, R79, R81): the offset of its
header in the buffer, its payload length, the runs of capture memory (address, length) that its payload lies in, the payload
bytes issued, and the bytes read and not yet issued. -/
structure DataFrame where
  off : Nat
  len : Nat
  runs : List (Nat × Nat)
  sent : Nat
  got : List Byte
deriving DecidableEq, Repr

/-- Transfer progress (R69), with the stage of R76, the RESUMED flag taken at the start (R76), the damaged
granules found so far (their count is R80's) and the DATA frame in production. -/
structure Progress where
  started : Bool
  stage : Stage
  fragment : Nat
  offset : Nat
  crc : BitVec 32
  damaged : List Nat
  written : Bool
  resumed : Bool
  frame : Option DataFrame
deriving DecidableEq, Repr

/-- A write issued on the bound link and not yet answered (R81): its offset in the current buffer, its length and
the entry whose bytes it carries. -/
structure OutWrite where
  addr : Addr64
  off : Nat
  len : Nat
  entry : Nat
deriving DecidableEq, Repr

/-- The BUFFER_FILLED of a failed write, waiting for a slot (R89). -/
structure ErrorNotice where
  addr : Addr64
  used : Nat
  first : Nat
  last : Nat
deriving DecidableEq, Repr

/-- The write whose error response has put the engine in FAULTED (R89), until the failure is logged: its address, and the
bytes used that its notice will carry. -/
structure FailedWrite where
  addr : Addr64
  used : Nat
deriving DecidableEq, Repr

/-- What the engine does once the writes already issued are answered (R87, R90). A part reset that meets an
UNBIND_ARCHIVE waiting, or one taken during its own wait, has that request to answer too (R170). -/
inductive Ending where
  | unbind (r : Passed)
  | partReset (unbinding : Option Passed)
deriving DecidableEq, Repr

/-- The flush timer while it runs (R84): microseconds remaining, and the ticks of the current one. -/
structure FlushTimer where
  remaining : Nat
  ticks : Nat
deriving DecidableEq, Repr

/-- The archive engine (R69). `closed` holds the FLUSHED flag of a closed current buffer (R81, R82). -/
structure Engine where
  bound : Option Port
  state : EngineState
  buffers : List Buffer
  used : Nat
  touched : Option (Nat × Nat)
  awaiting : List (Nat × Bool)
  cursor : Nat
  sendPos : Nat
  claim : Option Nat
  progress : Progress
  closed : Option Bool
  issued : List OutWrite
  failed : Option FailedWrite
  errorNotice : Option ErrorNotice
  ending : Option Ending
  flush : Option FlushTimer
  lowArmed : Bool
deriving DecidableEq, Repr

/-! ## Record writer -/

/-- Writer state (R92). -/
inductive WriterState where
  | idle
  | passing
  | pretrigger
  | recording
  | starved
  | atCut
deriving DecidableEq, Repr

/-- Starved cause (R91). -/
inductive StarvedCause where
  | blocks
  | catalog
deriving DecidableEq, Repr

/-- Waiting request (R91). -/
inductive WaitRequest where
  | takeBlock
  | openContinuous (first : Nat) (afterGap : Bool)
  | openSegmented
  | appendGap (c : Cut)
deriving DecidableEq, Repr

/-- A state change told by the aligner (R95). -/
inductive WriterChange where
  | toPassing
  | toPretrigger
deriving DecidableEq, Repr

/-- Session parameters of the writer (R91), with the fields of R6 that it supplies for each entry. -/
structure WriterParams where
  mode : CaptureMode
  layout : List SlotDesc
  frameSize : Nat
  framesPerBlock : Nat
  pre : Nat
  post : Nat
  span : Nat
  retention : Retention
  archReq : Bool
deriving DecidableEq, Repr

/-- The record writer (R91). -/
structure Writer where
  state : WriterState
  params : WriterParams
  nextFrame : Option Nat
  openRec : Option Nat
  recFirst : Nat
  recLast : Option Nat
  written : Nat
  chainFirst : Option Nat
  chainLast : Option Nat
  chainBlocks : Nat
  lastFill : Nat
  provOldest : Option Nat
  handed : Option Trigger
  waiting : Option WaitRequest
  cause : Option StarvedCause
  resume : WriterState
  episodeDrops : Nat
  gapFollowUp : Bool
  stopping : Bool
  changes : List (Nat × WriterChange)
  newestWritten : Option Nat
  offered : Bool
  cutTold : Bool
  aborting : Bool
deriving DecidableEq, Repr

/-! ## Trigger aligner -/

/-- Aligner state (R111). -/
inductive AlignerState where
  | disarmed
  | arming
  | armed
  | capturing
  | holdoff
  | marking
deriving DecidableEq, Repr

/-- Session parameters of the aligner (R111). -/
structure AlignerParams where
  mode : CaptureMode
  pre : Nat
  post : Nat
  holdoff : Nat
  rearm : Rearm
  early : Early
  rawLatency : Nat
  markMain : Bool
  markAux : Bool
deriving DecidableEq, Repr

/-- The hand-over (R111): the handed trigger's frame and the planned last frame. -/
structure HandOver where
  frame : Nat
  last : Nat
deriving DecidableEq, Repr

/-- The capture record (R111); a continuous one has no planned last frame. -/
structure CaptureRecord where
  number : Nat
  first : Nat
  last : Option Nat
deriving DecidableEq, Repr

/-- The trigger aligner (R111). `rejudge` is set inside a step when the pending trigger is to be judged again
(R115) and is clear between steps. -/
structure Aligner where
  state : AlignerState
  params : AlignerParams
  newest : Option Nat
  firstFrame : Option Nat
  armingFrame : Option Nat
  pending : Option Trigger
  handOver : Option HandOver
  capture : Option CaptureRecord
  lastSealed : Option (Nat × Nat)
  holdoffEnd : Option Nat
  holdoffCount : Nat
  disarmAfterSeal : Bool
  marks : List Mark
  rejudge : Bool
deriving DecidableEq, Repr

/-! ## Intake unit -/

/-- Intake state (R135). -/
inductive IntakeState where
  | idle
  | accepting
  | closed
deriving DecidableEq, Repr

/-- What START found on the digitizer link (R135): nothing in transfer; under FRAME a group of which so many frames
had arrived; under GROUP a group to discard. -/
inductive InTransfer where
  | nothing
  | partialGroup (arrived : Nat)
  | discardGroup
deriving DecidableEq, Repr

/-- The intake unit (R126, R130, R134, R135, R138). The buffer is oldest first. -/
structure Intake where
  state : IntakeState
  linkUp : Bool
  linkSeen : Bool
  items : List Item
  setup : List SlotDesc
  frameSize : Nat
  hiMark : Nat
  loMark : Nat
  startAlign : StartAlign
  expected : Option Nat
  newest : Option Nat
  firstFrame : Option Nat
  urgent : Bool
  inTransfer : InTransfer
deriving DecidableEq, Repr

/-! ## Memory service -/

/-- Calibration state (R149). -/
inductive Calibration where
  | calibrating
  | ready
  | failed
deriving DecidableEq, Repr

/-- A write burst of the writer (R94): the block it lies in, its capture address, its frames and bytes. -/
structure WriterBurst where
  block : Nat
  addr : Nat
  count : Nat
  bytes : List Byte
deriving DecidableEq, Repr

/-- A read burst of the archive engine (R79). -/
structure ArchiveBurst where
  addr : Nat
  len : Nat
deriving DecidableEq, Repr

/-- A read burst of a port's window reads (R63): the read it serves, the piece of its answer, its addresses, and the
record and epoch of its translation. -/
structure WindowBurst where
  port : Port
  read : Nat
  piece : Nat
  addr : Nat
  len : Nat
  record : Nat
  epoch : BitVec 16
deriving DecidableEq, Repr

/-- What the arbiter has granted and what has not completed (R142). `discard` is set for an archive burst whose
transfer has been rewound (R141). `stray` is a write burst that was granted when a STOP made the writer IDLE (R160): its
frames have been dropped, and its bytes alone are still to be written (log entry 15). -/
inductive Grant where
  | refresh
  | writer (b : WriterBurst)
  | stray (b : WriterBurst)
  | archive (b : ArchiveBurst) (discard : Bool)
  | window (b : WindowBurst)
deriving DecidableEq, Repr

/-- The memory service (R140 to R151). `cells` is capture memory in its one canonical form; `flipped` the bits of
granules (granule, bit) that have flipped since their code word was written, `late` those that the command of a burst has
brought and that take hold at a later one (log entry 5). -/
structure MemService where
  cal : Calibration
  order : ArbOrder
  pointer : Port
  debt : Nat
  refreshPhase : Nat
  busy : Option Grant
  writerAsk : Option WriterBurst
  archiveAsk : Option ArchiveBurst
  windowAsk0 : List WindowBurst
  windowAsk1 : List WindowBurst
  cells : List Host.Cell
  flipped : List (Nat × Nat)
  late : List (Nat × Nat)
deriving DecidableEq, Repr

/-! ## Session unit -/

/-- Session state (R155). -/
inductive SessionState where
  | stopped
  | running
  | finishing
  | draining
deriving DecidableEq, Repr

/-- Session totals (R159). -/
structure Totals where
  received : Nat
  missing : Nat
  written : Nat
  dropped : Nat
  passedOver : Nat
deriving DecidableEq, Repr

/-- The request in progress (R152). -/
inductive InProgress where
  | abort (r : Passed)
  | resetPart (r : Passed)
deriving DecidableEq, Repr

/-- The flags of DRAIN_DONE (R163). -/
structure DrainFlags where
  unbound : Bool
  aborted : Bool
deriving DecidableEq, Repr

/-- The session unit (R152). The calibration status is `MemService.cal`. `drainDue` is set inside a step that has
reached STOPPED until its DRAIN_DONE is sent (R160). -/
structure Session where
  config : Option ConfigRec
  generation : BitVec 32
  state : SessionState
  stopTaken : Bool
  drain0 : Bool
  drain1 : Bool
  inProgress : Option InProgress
  totals : Totals
  drainDue : Option DrainFlags
deriving DecidableEq, Repr

/-! ## Port units -/

/-- A field of a byte layout: its offset, its size in bytes, its value (least significant byte first). -/
structure Field where
  off : Nat
  size : Nat
  val : Nat
deriving DecidableEq, Repr

/-- The notices that can join the pending-notice set (R173). -/
inductive NoticeKind where
  | holdRevoked
  | holdExpired
  | buffersLow
  | drainDone
  | writerStarved
  | writerResumed
  | faultLogged
  | partReset
deriving DecidableEq, Repr

/-- A completion not yet written (R172): its epoch is that of the writing (R190), and so is its generation unless the
request produced one (R154; log entry 44). -/
structure Completion where
  code : Nat
  tag : BitVec 16
  status : Nat
  detail : Nat
  payload : List Field
  generation : Option (BitVec 32)
deriving DecidableEq, Repr

/-- A request taken and not yet answered (R167). -/
structure InHand where
  code : Nat
  tag : BitVec 16
deriving DecidableEq, Repr

/-- What the part puts on a port link (R168): responses to the master's transactions, interrupt messages (R174) and
archive writes (R81). -/
inductive LinkEvent where
  | readData (addr : Nat) (data : List Byte)
  | readError (addr : Nat)
  | apertureAck (addr : Nat)
  | apertureError (addr : Nat)
  | controlAck (off : Nat)
  | interrupt (addr : Addr64) (data : BitVec 32)
  | archiveWrite (addr : Addr64) (data : List Byte)
deriving DecidableEq, Repr

/-- A port unit (R167). `messages` counts interrupt messages issued and not answered with an error (R174); `link` is
the port's link output, oldest first (log entry 28). -/
structure PortUnit where
  reqSlots : Vector (List Byte) 32
  reqHead : Fin 32
  reqTail : Fin 32
  cplSlots : Vector (List Byte) 64
  cplHead : Fin 64
  cplTail : Fin 64
  irqEnable : Bool
  writeErrorEnable : Bool
  conflictErrorEnable : Bool
  unmappedRead : Bool
  writeViolation : Bool
  decodeConflict : Bool
  readTimeout : Bool
  noticesMissed : Bool
  irqAddr : Addr64
  irqData : BitVec 32
  missed : List NoticeKind
  irqOutstanding : Bool
  inHand : Option InHand
  held : Option Completion
  messages : Nat
  link : List LinkEvent
deriving DecidableEq, Repr

/-! ## Counter and fault unit -/

structure IntakeCounters where
  groupsTaken : Nat
  groupsMalformed : Nat
  linkDown : Nat
  linkUp : Nat
  dropsFull : Nat
  dropsIndex : Nat
  dropsStop : Nat
  dropsAbort : Nat
  episodes : Nat
deriving DecidableEq, Repr

structure TriggerCounters where
  accepted : Nat
  early : Nat
  stale : Nat
  overrun : Nat
  ignored : Nat
  lostToDrop : Nat
  marksKept : Nat
  marksOverflowed : Nat
  lateMarks : Nat
  forced : Nat
deriving DecidableEq, Repr

structure CatalogCounters where
  opened : Nat
  sealed : Nat
  truncated : Nat
  gaps : Nat
  lost : Nat
  retired : Nat
  headRemovals : Nat
  fullStalls : Nat
deriving DecidableEq, Repr

structure ArchiveCounters where
  lossFrames : Nat
  gapFrames : Nat
  bytesWritten : Nat
  filled : Nat
  flushed : Nat
  linkErrors : Nat
  rewinds : Nat
  damagedSent : Nat
  buckets : Vector Nat 6
deriving DecidableEq, Repr

structure HoldCounters where
  placed : Nat
  renewed : Nat
  released : Nat
  expired : Nat
  revoked : Nat
  refused : Nat
deriving DecidableEq, Repr

structure PortCounters where
  requestsTaken : Nat
  windowReads : Nat
  bytesRead : Nat
  overReads : Nat
  unmappedReads : Nat
  writeViolations : Nat
  decodeConflicts : Nat
  readTimeouts : Nat
  noticesMissed : Nat
deriving DecidableEq, Repr

structure MemoryCounters where
  corrected : Nat
  uncorrectable : Nat
  refreshOverdue : Nat
  blocksRetired : Nat
  reclaims : Nat
  reclaimFailures : Nat
deriving DecidableEq, Repr

/-- The counter groups (R178); the SESSION group is `Session.totals`. -/
structure Counters where
  intake : IntakeCounters
  trigger : TriggerCounters
  catalog : CatalogCounters
  archive : ArchiveCounters
  holds : HoldCounters
  port0 : PortCounters
  port1 : PortCounters
  memory : MemoryCounters
deriving DecidableEq, Repr

/-- The fault units (R182), in the order of their numbers (R188). -/
inductive FaultUnit where
  | intake
  | memory
  | archive
  | writer
  | port0
  | port1
deriving DecidableEq, Repr

/-- A fault record (R182). The kind is its number within the unit (R188). -/
structure FaultRecord where
  valid : Bool
  overflow : Bool
  kind : Nat
  detail : BitVec 64
  frame : Nat
deriving DecidableEq, Repr

/-- The six fault records and kind masks, and the copy of the newest received frame index (R182). -/
structure Faults where
  records : Vector FaultRecord 6
  masks : Vector (BitVec 8) 6
  newest : Nat
deriving DecidableEq, Repr

/-! ## The whole part -/

/-- The state of the part, with the queue of waiting commands. -/
structure State where
  catalog : Catalog
  blocks : BlockMap
  bank0 : HoldBank
  bank1 : HoldBank
  engine : Engine
  writer : Writer
  aligner : Aligner
  intake : Intake
  mem : MemService
  session : Session
  port0 : PortUnit
  port1 : PortUnit
  counters : Counters
  faults : Faults
  passed : List Passed
  freeCount : Nat
  pending : List Instr
deriving DecidableEq, Repr

/-- Why the machine stops. -/
inductive Fault where
  /-- Raised by WRITER_BURST_DONE, ARCHIVE_BURST_DONE and WINDOW_READ_BURST_DONE when the completed burst reaches
  past the last byte of capture memory (R140). No rule asks for such a burst. Safe: the part has no such address. -/
  | outsideCaptureMemory
deriving DecidableEq, Repr

/-- Why a command has no meaning. -/
inductive Refusal where
  /-- Raised by exec for a command whose meaning is not written. Safe. None is left. -/
  | notModelled (mnemonic : String)
  /-- Raised by WINDOW_READ, APERTURE_WRITE and CONTROL_WINDOW_WRITE for operands that make no transaction (`Instr.wf`):
  a length that is not 1 to 256 bytes (R168), an aperture offset past the aperture's last byte (R58). Safe: no master can
  send it. -/
  | illFormed
deriving DecidableEq, Repr

/-! ## The state after power-on -/

/-- The numbers start, start + 1, ... (R29: the free list in ascending order). -/
def natsFrom : Nat → Nat → List Nat
  | _, 0 => []
  | start, n + 1 => start :: natsFrom (start + 1) n

/-- A FREE block (R29). -/
def Block.fresh : Block := { state := .free, next := none, owner := none, held := 0, suspect := false }

/-- The block map at power-on (R29). -/
def BlockMap.reset : BlockMap :=
  { table := Vector.replicate 8192 Block.fresh, free := natsFrom 0 8192, faulty := 0, last := none }

/-- The catalog at power-on (R4). -/
def Catalog.reset : Catalog := { entries := [], next := 1, epoch := 0, session := 0 }

/-- A port's hold table at power-on (R44, R45). -/
def HoldBank.reset : HoldBank :=
  { slots := Vector.replicate 16 none, tagCounter := 0, reads := [], nextRead := 0 }

/-- The initial value of a CRC-32 register (R194). -/
def crcInitial : BitVec 32 := 0xFFFFFFFF

/-- Transfer progress with nothing started (R69: 0, the running CRC included; a start gives it the initial value of R194).
The RESUMED latch, stage and frame are DESIGN CHOICE (log entry 7). -/
def Progress.clear : Progress :=
  { started := false, stage := .header, fragment := 0, offset := 0, crc := 0, damaged := [],
    written := false, resumed := false, frame := none }

/-- The archive engine at power-on (R69). -/
def Engine.reset : Engine :=
  { bound := none, state := .unbound, buffers := [], used := 0, touched := none, awaiting := [], cursor := 1,
    sendPos := 1, claim := none, progress := Progress.clear, closed := none, issued := [], failed := none,
    errorNotice := none, ending := none, flush := none, lowArmed := true }

/-- Session parameters before the first START (DESIGN CHOICE, log entry 7). -/
def WriterParams.reset : WriterParams :=
  { mode := .segmented, layout := [], frameSize := 0, framesPerBlock := 0, pre := 0, post := 0, span := 0,
    retention := .lossless, archReq := false }

/-- The writer IDLE with every optional item absent, every count 0 and every flag clear (R91), with the given
session parameters. R91 gives no value for the record first frame, the starved cause and the resume state, which are no
optional item, count or flag: the model holds 0, none and PASSING (DESIGN CHOICE, log entry 7). -/
def Writer.idle (params : WriterParams) : Writer :=
  { state := .idle, params := params, nextFrame := none, openRec := none, recFirst := 0, recLast := none,
    written := 0, chainFirst := none, chainLast := none, chainBlocks := 0, lastFill := 0, provOldest := none,
    handed := none, waiting := none, cause := none, resume := .passing, episodeDrops := 0, gapFollowUp := false,
    stopping := false, changes := [], newestWritten := none, offered := false, cutTold := false,
    aborting := false }

/-- Session parameters before the first START (DESIGN CHOICE, log entry 7). -/
def AlignerParams.reset : AlignerParams :=
  { mode := .segmented, pre := 0, post := 0, holdoff := 0, rearm := .auto, early := .accept, rawLatency := 0,
    markMain := false, markAux := false }

/-- The aligner as at power-on and at STOPPED (R111), with the given session parameters. -/
def Aligner.rest (params : AlignerParams) : Aligner :=
  { state := .disarmed, params := params, newest := none, firstFrame := none, armingFrame := none,
    pending := none, handOver := none, capture := none, lastSealed := none, holdoffEnd := none,
    holdoffCount := 0, disarmAfterSeal := false, marks := [], rejudge := false }

/-- The intake unit at power-on (R138). -/
def Intake.reset : Intake :=
  { state := .idle, linkUp := false, linkSeen := false, items := [], setup := [], frameSize := 0, hiMark := 0,
    loMark := 0, startAlign := .group, expected := none, newest := none, firstFrame := none, urgent := false,
    inTransfer := .nothing }

/-- The memory service at power-on (R151). No rule says what capture memory and its code words hold before calibration ends
(R140, R149): every byte is 0 and no bit has flipped (DESIGN CHOICE, log entry 7). -/
def MemService.reset : MemService :=
  { cal := .calibrating, order := .normal, pointer := .p0, debt := 0, refreshPhase := 0, busy := none,
    writerAsk := none, archiveAsk := none, windowAsk0 := [], windowAsk1 := [], cells := [], flipped := [], late := [] }

/-- Session totals at 0 (R159). -/
def Totals.zero : Totals := { received := 0, missing := 0, written := 0, dropped := 0, passedOver := 0 }

/-- The session unit at power-on (R152). -/
def Session.reset : Session :=
  { config := none, generation := 0, state := .stopped, stopTaken := false, drain0 := false, drain1 := false,
    inProgress := none, totals := Totals.zero, drainDue := none }

/-- A port unit at power-on (R167). -/
def PortUnit.reset : PortUnit :=
  { reqSlots := Vector.replicate 32 (List.replicate 64 0), reqHead := 0, reqTail := 0,
    cplSlots := Vector.replicate 64 (List.replicate 128 0), cplHead := 0, cplTail := 0,
    irqEnable := false, writeErrorEnable := false, conflictErrorEnable := false,
    unmappedRead := false, writeViolation := false, decodeConflict := false, readTimeout := false,
    noticesMissed := false, irqAddr := 0, irqData := 0, missed := [], irqOutstanding := false,
    inHand := none, held := none, messages := 0, link := [] }

def IntakeCounters.zero : IntakeCounters :=
  { groupsTaken := 0, groupsMalformed := 0, linkDown := 0, linkUp := 0, dropsFull := 0, dropsIndex := 0,
    dropsStop := 0, dropsAbort := 0, episodes := 0 }
def TriggerCounters.zero : TriggerCounters :=
  { accepted := 0, early := 0, stale := 0, overrun := 0, ignored := 0, lostToDrop := 0, marksKept := 0,
    marksOverflowed := 0, lateMarks := 0, forced := 0 }
def CatalogCounters.zero : CatalogCounters :=
  { opened := 0, sealed := 0, truncated := 0, gaps := 0, lost := 0, retired := 0, headRemovals := 0,
    fullStalls := 0 }
def ArchiveCounters.zero : ArchiveCounters :=
  { lossFrames := 0, gapFrames := 0, bytesWritten := 0, filled := 0, flushed := 0, linkErrors := 0,
    rewinds := 0, damagedSent := 0, buckets := Vector.replicate 6 0 }
def HoldCounters.zero : HoldCounters :=
  { placed := 0, renewed := 0, released := 0, expired := 0, revoked := 0, refused := 0 }
def PortCounters.zero : PortCounters :=
  { requestsTaken := 0, windowReads := 0, bytesRead := 0, overReads := 0, unmappedReads := 0,
    writeViolations := 0, decodeConflicts := 0, readTimeouts := 0, noticesMissed := 0 }
def MemoryCounters.zero : MemoryCounters :=
  { corrected := 0, uncorrectable := 0, refreshOverdue := 0, blocksRetired := 0, reclaims := 0,
    reclaimFailures := 0 }

/-- Every stored counter at 0 (R178). -/
def Counters.zero : Counters :=
  { intake := IntakeCounters.zero, trigger := TriggerCounters.zero, catalog := CatalogCounters.zero,
    archive := ArchiveCounters.zero, holds := HoldCounters.zero, port0 := PortCounters.zero,
    port1 := PortCounters.zero, memory := MemoryCounters.zero }

/-- A cleared fault record (R182, R185). -/
def FaultRecord.clear : FaultRecord := { valid := false, overflow := false, kind := 0, detail := 0, frame := 0 }

/-- The fault unit at power-on (R182): every record clear, every enable set. -/
def Faults.reset : Faults :=
  { records := Vector.replicate 6 FaultRecord.clear,
    masks := #v[0x07, 0x0F, 0x03, 0x1F, 0xFF, 0xFF], newest := 0 }

/-- The part right after power-on. -/
def State.reset : State :=
  { catalog := Catalog.reset, blocks := BlockMap.reset, bank0 := HoldBank.reset, bank1 := HoldBank.reset,
    engine := Engine.reset, writer := Writer.idle WriterParams.reset,
    aligner := Aligner.rest AlignerParams.reset, intake := Intake.reset, mem := MemService.reset,
    session := Session.reset, port0 := PortUnit.reset, port1 := PortUnit.reset, counters := Counters.zero,
    faults := Faults.reset, passed := [], freeCount := 0, pending := [] }

end Sys2Proof.Machine
end

