-- ==== Sys2Proof/Machine/Layout.lean ====
section
/-! DEFINITION. Byte layouts (12_formats.md): fields stored least significant byte first, the record descriptor, archive
frame headers and the CRC-32. -/

namespace Sys2Proof.Machine

/-- Byte `i` of a value stored least significant byte first (00_scope.md, Conventions). -/
def byteOf (v i : Nat) : Byte := BitVec.ofNat 8 (v / 256 ^ i)

/-- The value of bytes stored least significant byte first. -/
def leValue : List Byte → Nat
  | [] => 0
  | b :: bs => b.toNat + 256 * leValue bs

/-- A value as `n` bytes, least significant first. -/
def leBytes (n v : Nat) : List Byte := (List.range n).map (byteOf v)

/-- The field at offset `off` of `size` bytes of a run of bytes. -/
def fieldAt (bs : List Byte) (off size : Nat) : Nat := leValue ((bs.drop off).take size)

/-- Byte `i` of a layout: the byte of the field that covers it, 0 where no field does (R190: bytes not named are
zero). -/
def layoutByte (fs : List Field) (i : Nat) : Byte :=
  match fs.find? (fun f => decide (f.off ≤ i) && decide (i < f.off + f.size)) with
  | some f => byteOf f.val (i - f.off)
  | none => 0

/-- The `n` bytes of a layout. -/
def layout (n : Nat) (fs : List Field) : List Byte := (List.range n).map (layoutByte fs)

/-- The fields moved `d` bytes up. -/
def shiftFields (d : Nat) (fs : List Field) : List Field := fs.map (fun f => { f with off := f.off + d })

/-- The number of a flag's bit. -/
def bit (b : Bool) (i : Nat) : Nat := if b then 2 ^ i else 0

/-! ## Codes of enumerated fields -/

/-- The source byte of a slot descriptor (R192). -/
def SlotSource.code : SlotSource → Nat
  | .channel n => n.val
  | .pair k => 8 + k.val

/-- The coding byte of a slot descriptor (R192). -/
def Coding.code : Coding → Nat
  | .signed => 0
  | .unsigned => 1

/-- 0 MAIN, 1 AUX (R190, R192). -/
def sourceCode : TrigSource → Nat
  | .main => 0
  | .aux => 1

/-- The state byte of a descriptor (R192). -/
def EntryState.code : EntryState → Nat
  | .opened => 1
  | .sealed => 2
  | .archived => 3
  | .lost => 4
  | .retired => 5

/-- The cause byte of a GAP descriptor (R192). -/
def CutCause.code : CutCause → Nat
  | .intakeFull => 1
  | .linkIndex => 2
  | .starvedBlocks => 3
  | .starvedCatalog => 4

/-- A port as QUERY_SPAN gives the bound port (R190): 0 none, 1 Port 0, 2 Port 1. -/
def boundCode : Option Port → Nat
  | none => 0
  | some .p0 => 1
  | some .p1 => 2

/-! ## The record descriptor (R192) -/

/-- The fields of a slot descriptor that begins at `off`. -/
def slotFields (off : Nat) : List SlotDesc → List Field
  | [] => []
  | d :: ds => ⟨off, 1, d.source.code⟩ :: ⟨off + 1, 1, d.coding.code⟩ :: slotFields (off + 2) ds

/-- The fields of the marks that begin at `off`. -/
def markFields (off : Nat) : List Mark → List Field
  | [] => []
  | m :: ms =>
    ⟨off, 8, m.frame⟩ :: ⟨off + 8, 1, m.fine.toNat⟩ :: ⟨off + 9, 1, sourceCode m.source⟩ ::
      markFields (off + 16) ms

/-- The flags byte of a DATA descriptor. -/
def DataFields.flags (d : DataFields) : Nat :=
  bit d.shortPretrigger 0 + bit d.truncated 1 + bit d.afterGap 2 + bit d.damaged 3 + bit d.resumedArchive 4

/-- Bytes 40 to 53 of a DATA descriptor: the trigger (zero for a CONTINUOUS record). -/
def triggerFields : Option TriggerField → List Field
  | none => []
  | some t =>
    [⟨40, 8, t.frame⟩, ⟨48, 4, t.captured⟩, ⟨52, 1, t.fine.toNat⟩,
     ⟨53, 1, 1 + bit (t.source = .aux) 1 + bit (t.stamp = .raw) 2⟩]

/-- The fields of an entry's descriptor without its marks. -/
def Entry.descriptorFields (e : Entry) : List Field :=
  [⟨0, 4, e.number⟩, ⟨4, 4, e.session.toNat⟩, ⟨9, 1, e.state.code⟩] ++
  match e.body with
  | .data d =>
    [⟨8, 1, 1⟩, ⟨10, 1, d.flags⟩,
     ⟨11, 1, bit (d.mode = .continuous) 0 + bit (d.retention = .latest) 1 + bit e.archReq 2⟩,
     ⟨12, 1, d.layout.length⟩, ⟨13, 1, d.frameSize⟩, ⟨14, 1, d.marks.length⟩, ⟨15, 1, d.markOverflow⟩,
     ⟨16, 8, d.first⟩, ⟨24, 8, d.frames⟩, ⟨32, 2, d.firstBlock.getD 0xFFFF⟩, ⟨34, 2, d.blockCount⟩,
     ⟨36, 4, d.startOffset⟩] ++ triggerFields d.trigger ++ slotFields 64 d.layout
  | .gap g =>
    [⟨8, 1, 2⟩, ⟨11, 1, bit e.archReq 2⟩, ⟨16, 8, g.first⟩, ⟨24, 8, g.count⟩, ⟨32, 2, 0xFFFF⟩,
     ⟨54, 1, g.cause.code⟩]

/-- The bytes of an entry's whole descriptor, marks included (R192). -/
def Entry.descriptor (e : Entry) : List Byte :=
  match e.body with
  | .data d =>
    layout (64 + 2 * d.layout.length + 16 * d.marks.length)
      (e.descriptorFields ++ markFields (64 + 2 * d.layout.length) d.marks)
  | .gap _ => layout 64 e.descriptorFields

/-! ## CRC-32 (R194) -/

/-- One bit of the reflected register: the polynomial 04C11DB7h reads EDB88320h with its bits reversed. -/
def crcBit (r : BitVec 32) : BitVec 32 :=
  if r.getLsbD 0 then (r >>> 1) ^^^ 0xEDB88320 else r >>> 1

/-- One byte, least significant bit first. -/
def crcByte (r : BitVec 32) (b : Byte) : BitVec 32 :=
  Nat.repeat crcBit 8 (r ^^^ b.setWidth 32)

/-- The register after a run of bytes. -/
def crcRun (r : BitVec 32) (bs : List Byte) : BitVec 32 := bs.foldl crcByte r

/-- The final XOR. -/
def crcFinal (r : BitVec 32) : BitVec 32 := r ^^^ 0xFFFFFFFF

/-- The CRC-32 of a run of bytes. -/
def crc32 (bs : List Byte) : BitVec 32 := crcFinal (crcRun crcInitial bs)

/-! ## Archive frames (R193) -/

/-- Archive frame kinds (R193). -/
inductive FrameKind where
  | header
  | data
  | endFrame
  | gap
  | loss
deriving DecidableEq, Repr

def FrameKind.code : FrameKind → Nat
  | .header => 1
  | .data => 2
  | .endFrame => 3
  | .gap => 4
  | .loss => 5

/-- The 32-byte header of an archive frame. -/
def archiveHeader (kind : FrameKind) (damaged resumed truncated : Bool) (epoch : BitVec 16)
    (number fragment offset length : Nat) (crc : BitVec 32) : List Byte :=
  layout 32
    [⟨0, 2, 0x5A4E⟩, ⟨2, 1, kind.code⟩, ⟨3, 1, bit damaged 0 + bit resumed 1 + bit truncated 2⟩,
     ⟨4, 2, epoch.toNat⟩, ⟨6, 2, 32⟩, ⟨8, 4, number⟩, ⟨12, 4, fragment⟩, ⟨16, 8, offset⟩,
     ⟨24, 4, length⟩, ⟨28, 4, crc.toNat⟩]

/-- The payload of an END frame (R193). -/
def endPayload (total : Nat) (crc : BitVec 32) (damaged : Nat) : List Byte :=
  layout 16 [⟨0, 8, total⟩, ⟨8, 4, crc.toNat⟩, ⟨12, 4, damaged⟩]

/-- The payload of a GAP frame (R193). -/
def gapPayload (g : GapFields) (session : BitVec 32) : List Byte :=
  layout 24 [⟨0, 8, g.first⟩, ⟨8, 8, g.count⟩, ⟨16, 4, session.toNat⟩, ⟨20, 1, g.cause.code⟩]

/-- A run of bytes cut into writes of at most 256 (R81), with the offset of each. -/
def chunks : Nat → Nat → List Byte → List (Nat × List Byte)
  | 0, _, _ => []
  | fuel + 1, off, bs =>
    match bs with
    | [] => []
    | _ => (off, bs.take Config.linkBytes) :: chunks fuel (off + Config.linkBytes) (bs.drop Config.linkBytes)

end Sys2Proof.Machine
end

