-- ==== Sys2Proof/Machine/Flags.lean ====
section
/-! DEFINITION. Counters and the gate of R180, port status flags, and the numbers of statuses, notices and fault
kinds. -/

namespace Sys2Proof.Machine

/-! ## Access by port -/

/-- Port p's port unit. -/
def State.port (s : State) (p : Port) : PortUnit :=
  match p with
  | .p0 => s.port0
  | .p1 => s.port1

/-- Replace port p's port unit. -/
def State.setPort (s : State) (p : Port) (u : PortUnit) : State :=
  match p with
  | .p0 => { s with port0 := u }
  | .p1 => { s with port1 := u }

/-- Port p's side of the hold table. -/
def State.bank (s : State) (p : Port) : HoldBank :=
  match p with
  | .p0 => s.bank0
  | .p1 => s.bank1

/-- Replace port p's side of the hold table. -/
def State.setBank (s : State) (p : Port) (b : HoldBank) : State :=
  match p with
  | .p0 => { s with bank0 := b }
  | .p1 => { s with bank1 := b }

/-! ## Counters -/

/-- A 64-bit counter advanced by `n`; it stays at 2^64 - 1 (R178). -/
def sat (a n : Nat) : Nat := min (a + n) Config.counterMax

/-- The SESSION, INTAKE, TRIGGER and CATALOG groups count while the session is RUNNING or FINISHING (R180). -/
def State.counting (s : State) : Bool := s.session.state = .running || s.session.state = .finishing

/-- An event of the INTAKE group, under the gate of R180. -/
def countIntake (f : IntakeCounters → IntakeCounters) (s : State) : State :=
  if s.counting then { s with counters := { s.counters with intake := f s.counters.intake } } else s

/-- An event of the TRIGGER group, under the gate of R180. -/
def countTrigger (f : TriggerCounters → TriggerCounters) (s : State) : State :=
  if s.counting then { s with counters := { s.counters with trigger := f s.counters.trigger } } else s

/-- An event of the CATALOG group, under the gate of R180. -/
def countCatalog (f : CatalogCounters → CatalogCounters) (s : State) : State :=
  if s.counting then { s with counters := { s.counters with catalog := f s.counters.catalog } } else s

/-- An event of the ARCHIVE group, counted in every session state (R180). -/
def countArchive (f : ArchiveCounters → ArchiveCounters) (s : State) : State :=
  { s with counters := { s.counters with archive := f s.counters.archive } }

/-- An event of the HOLDS group, counted in every session state (R180). -/
def countHolds (f : HoldCounters → HoldCounters) (s : State) : State :=
  { s with counters := { s.counters with holds := f s.counters.holds } }

/-- An event of the MEMORY group, counted in every session state (R180). -/
def countMemory (f : MemoryCounters → MemoryCounters) (s : State) : State :=
  { s with counters := { s.counters with memory := f s.counters.memory } }

/-- Port p's counter group (R178). -/
def Counters.port (c : Counters) : Port → PortCounters
  | .p0 => c.port0
  | .p1 => c.port1

/-- An event of port p's group, counted in every session state (R180). -/
def countPort (p : Port) (f : PortCounters → PortCounters) (s : State) : State :=
  match p with
  | .p0 => { s with counters := { s.counters with port0 := f s.counters.port0 } }
  | .p1 => { s with counters := { s.counters with port1 := f s.counters.port1 } }

/-- Session totals (R159). -/
def addTotals (f : Totals → Totals) (s : State) : State :=
  { s with session := { s.session with totals := f s.session.totals } }

/-! ## Numbers -/

/-- The statuses of R190. -/
inductive Status where
  | ok
  | busy
  | range
  | gone
  | notSealed
  | noSlot
  | unknownHold
  | boundElsewhere
  | notBound
  | listFull
  | faulted
  | wrongMode
  | notConfigured
  | stale
  | memoryFailed
  | held
  | unknownRequest
  | malformed
deriving DecidableEq, Repr

/-- The value of a status (R190). -/
def Status.code : Status → Nat
  | .ok => 0
  | .busy => 1
  | .range => 2
  | .gone => 3
  | .notSealed => 4
  | .noSlot => 5
  | .unknownHold => 6
  | .boundElsewhere => 7
  | .notBound => 8
  | .listFull => 9
  | .faulted => 10
  | .wrongMode => 11
  | .notConfigured => 12
  | .stale => 13
  | .memoryFailed => 14
  | .held => 15
  | .unknownRequest => 16
  | .malformed => 17

/-- The code of a notice (R191). -/
def NoticeKind.code : NoticeKind → Nat
  | .holdRevoked => 0x81
  | .holdExpired => 0x82
  | .buffersLow => 0x84
  | .drainDone => 0x85
  | .writerStarved => 0x86
  | .writerResumed => 0x87
  | .faultLogged => 0x88
  | .partReset => 0x89

/-- The codes of BUFFER_FILLED and NOTICES_MISSED (R191). -/
def bufferFilledCode : Nat := 0x83
def noticesMissedCode : Nat := 0x8A

/-- The code of a request (R188). -/
def Request.code : Request → Nat
  | .describe => 0x01
  | .querySpan => 0x02
  | .queryRecord _ => 0x03
  | .queryMarks _ => 0x04
  | .placeHold _ => 0x08
  | .renewHold _ _ => 0x09
  | .releaseHold _ _ => 0x0A
  | .queryHolds _ => 0x0B
  | .bindArchive => 0x10
  | .unbindArchive => 0x11
  | .supplyBuffer _ _ => 0x12
  | .arm => 0x18
  | .disarm => 0x19
  | .forceTrigger => 0x1A
  | .configure _ => 0x20
  | .start _ _ => 0x21
  | .stop => 0x22
  | .abort => 0x23
  | .resetPart => 0x24
  | .readCounters _ _ => 0x28
  | .readFaults => 0x29
  | .clearFaults _ => 0x2A
  | .setFaultEnable _ _ => 0x2B

/-- The number of a fault unit (R188). -/
def FaultUnit.idx : FaultUnit → Fin 6
  | .intake => 0
  | .memory => 1
  | .archive => 2
  | .writer => 3
  | .port0 => 4
  | .port1 => 5

/-- The PORTn unit of a port (R182). -/
def portFault : Port → FaultUnit
  | .p0 => .port0
  | .p1 => .port1

/-- The kinds of the fault units, in the order of the table of R182. -/
inductive FaultKind where
  | malformedGroup
  | linkDown
  | linkUp
  | uncorrectable
  | blockRetired
  | refreshOverdue
  | calibration
  | linkWriteError
  | completionRefused
  | catalogStall
  | openExists
  | notOpen
  | stillFilling
  | notProvisional
  | unmappedRead
  | writeViolation
  | decodeConflict
  | readTimeout
  | controlWrite
  | unknownRequest
  | malformed
  | interruptWriteError
deriving DecidableEq, Repr

/-- The number of a kind within its unit (R188: numbered from 0 in the order of R182). -/
def FaultKind.code : FaultKind → Nat
  | .malformedGroup => 0
  | .linkDown => 1
  | .linkUp => 2
  | .uncorrectable => 0
  | .blockRetired => 1
  | .refreshOverdue => 2
  | .calibration => 3
  | .linkWriteError => 0
  | .completionRefused => 1
  | .catalogStall => 0
  | .openExists => 1
  | .notOpen => 2
  | .stillFilling => 3
  | .notProvisional => 4
  | .unmappedRead => 0
  | .writeViolation => 1
  | .decodeConflict => 2
  | .readTimeout => 3
  | .controlWrite => 4
  | .unknownRequest => 5
  | .malformed => 6
  | .interruptWriteError => 7

/-- How many kinds a unit has (R182). -/
def FaultUnit.kinds : FaultUnit → Nat
  | .intake => 3
  | .memory => 4
  | .archive => 2
  | .writer => 5
  | .port0 => 8
  | .port1 => 8

end Sys2Proof.Machine
end

