-- ==== Sys2Proof/Machine/Ops.lean ====
section
/-! DEFINITION. The named operations that every block shares: capture memory byte by byte, the completion queue, notices,
interrupt messages, answers to requests, fault records and free values. -/

namespace Sys2Proof.Machine

/-! ## Capture memory

The one canonical form of the sparse list: addresses strictly rising, no entry 0, which an unlisted byte reads as
(R149; log entry 6). -/

/-- What an unlisted byte of capture memory reads as (R149). -/
def Memory.unlisted : Byte := 0

/-- The byte at a capture address. -/
def Memory.read (a : Nat) : List Host.Cell → Byte
  | [] => Memory.unlisted
  | (b, v) :: cs => if a = b then v else Memory.read a cs

/-- Write one byte, keeping the canonical form. -/
def Memory.write (a : Nat) (v : Byte) : List Host.Cell → List Host.Cell
  | [] => if v = Memory.unlisted then [] else [(a, v)]
  | (b, w) :: cs =>
    if a < b then (if v = Memory.unlisted then (b, w) :: cs else (a, v) :: (b, w) :: cs)
    else if a = b then (if v = Memory.unlisted then cs else (a, v) :: cs)
    else (b, w) :: Memory.write a v cs

/-- Write consecutive bytes from `a` on. -/
def Memory.writeRun : Nat → List Byte → List Host.Cell → List Host.Cell
  | _, [], cs => cs
  | a, v :: vs, cs => Memory.writeRun (a + 1) vs (Memory.write a v cs)

/-- Every address of the list is above `lo`, rising, and no byte is the unlisted one. -/
def Memory.risingFrom : Option Nat → List Host.Cell → Bool
  | _, [] => true
  | lo, (a, v) :: cs =>
    (match lo with
      | none => true
      | some l => decide (l < a)) && decide (v ≠ Memory.unlisted) && Memory.risingFrom (some a) cs

/-- The canonical form. -/
def Memory.wf (cs : List Host.Cell) : Bool := Memory.risingFrom none cs

/-! ## The completion queue -/

/-- Entries the completion queue holds (R167): the tail less the head, modulo 64. -/
def PortUnit.entries (u : PortUnit) : Nat := (u.cplTail - u.cplHead).val

/-- Its free slots (R167). -/
def PortUnit.free (u : PortUnit) : Nat := 63 - u.entries

/-- Requests the request queue holds (R167). -/
def PortUnit.requests (u : PortUnit) : Nat := (u.reqTail - u.reqHead).val

/-- Issue an interrupt message if the enable is set and none is outstanding (R174). -/
def interrupt (p : Port) (s : State) : State :=
  let u := s.port p
  if u.irqEnable && !u.irqOutstanding then
    s.setPort p
      { u with
        irqOutstanding := true, messages := u.messages + 1,
        link := u.link ++ [.interrupt u.irqAddr u.irqData] }
  else s

/-- Fill the slot at the completion tail, advance the tail (R172), and issue an interrupt message (R174). -/
def enqueue (p : Port) (slot : List Byte) (s : State) : State :=
  let u := s.port p
  interrupt p
    (s.setPort p { u with cplSlots := u.cplSlots.set u.cplTail.val slot u.cplTail.isLt, cplTail := u.cplTail + 1 })

/-- The 128 bytes of a completion queue entry (R190), with the given generation and the epoch of this moment. -/
def entrySlot (kind code : Nat) (tag : BitVec 16) (status detail : Nat) (generation : BitVec 32) (payload : List Field)
    (s : State) : List Byte :=
  layout 128
    ([⟨0, 1, kind⟩, ⟨1, 1, code⟩, ⟨2, 2, tag.toNat⟩, ⟨4, 2, status⟩, ⟨6, 2, detail⟩,
      ⟨8, 4, generation.toNat⟩, ⟨12, 2, s.catalog.epoch.toNat⟩] ++ shiftFields 16 payload)

/-- The slot of a completion (R190): the generation of this moment, or the one its CONFIGURE produced (R154). -/
def completionSlot (c : Completion) (s : State) : List Byte :=
  entrySlot 1 c.code c.tag c.status c.detail (c.generation.getD s.session.generation) c.payload s

/-- The slot of a notice (R190, R191). -/
def noticeSlot (code : Nat) (payload : List Field) (s : State) : List Byte :=
  entrySlot 2 code 0 0 0 s.session.generation payload s

/-- Write a completion, or hold it when no slot is free (R172). -/
def writeCompletion (p : Port) (c : Completion) (s : State) : State :=
  if 0 < (s.port p).free then enqueue p (completionSlot c s) s
  else s.setPort p { s.port p with held := some c }

/-- The kind joins the pending-notice set, no kind twice; the flag is set and one notice missed is counted (R173). -/
def missNotice (p : Port) (k : NoticeKind) (s : State) : State :=
  let u := s.port p
  countPort p (fun c => { c with noticesMissed := sat c.noticesMissed 1 })
    (s.setPort p
      { u with missed := if u.missed.contains k then u.missed else u.missed ++ [k], noticesMissed := true })

/-- Send an ordinary notice to port p (R172): any free slot, or the pending-notice set. -/
def notify (p : Port) (k : NoticeKind) (payload : List Field) (s : State) : State :=
  if 0 < (s.port p).free then enqueue p (noticeSlot k.code payload s) s else missNotice p k s

/-- Send a notice to both ports; the two writings are independent (R172). -/
def notifyBoth (k : NoticeKind) (payload : List Field) (s : State) : State :=
  notify .p1 k payload (notify .p0 k payload s)

/-- The kinds field of NOTICES_MISSED (R191): bit i names the notice of code 81h + i. -/
def missedBits (ks : List NoticeKind) : Nat := ks.foldl (fun n k => n + 2 ^ (k.code - 0x81)) 0

/-- Write NOTICES_MISSED when the set is not empty, a slot is free and no held completion waits (R173). -/
def reportMissed (p : Port) (s : State) : State :=
  let u := s.port p
  if !u.missed.isEmpty && decide (0 < u.free) && u.held.isNone then
    let s1 := enqueue p (noticeSlot noticesMissedCode [⟨0, 2, missedBits u.missed⟩] s) s
    s1.setPort p { s1.port p with missed := [] }
  else s

/-- Put something on port p's link. -/
def emit (p : Port) (e : LinkEvent) (s : State) : State :=
  s.setPort p { s.port p with link := (s.port p).link ++ [e] }

/-! ## Requests passed to their owning blocks -/

/-- Is this passed request the one of port p with this code? -/
def Passed.is (p : Port) (code : Nat) (r : Passed) : Bool := r.port = p && r.request.code = code

/-- The oldest request of this code that port p has passed and its owning block has not taken, and the state without
it (R170). -/
def takePassed (p : Port) (code : Nat) (s : State) : Option (Passed × State) :=
  match s.passed.find? (Passed.is p code) with
  | some r => some (r, { s with passed := s.passed.eraseP (Passed.is p code) })
  | none => none

/-- The completion of a passed request (R170, R190). -/
def Passed.completion (r : Passed) (status : Status) (detail : Nat) (payload : List Field) : Completion :=
  { code := r.request.code, tag := r.tag, status := status.code, detail := detail, payload := payload, generation := none }

/-- The owning block's answer to a passed request by a completion (R170): the request in hand becomes none and the
completion is written, unless a port reset has discarded it (R177). -/
def answerBy (c : Completion) (r : Passed) (s : State) : State :=
  if r.live then writeCompletion r.port c (s.setPort r.port { s.port r.port with inHand := none }) else s

/-- The owning block's answer to a passed request (R170). -/
def answer (r : Passed) (status : Status) (detail : Nat) (payload : List Field) (s : State) : State :=
  answerBy (r.completion status detail payload) r s

/-! ## Fault records -/

/-- The kind mask of a unit enables the kind (R182). -/
def Faults.enabled (f : Faults) (u : FaultUnit) (k : FaultKind) : Bool := (f.masks.get u.idx).getLsbD k.code

/-- Replace a unit's fault record. -/
def setFaultRecord (u : FaultUnit) (r : FaultRecord) (s : State) : State :=
  { s with faults := { s.faults with records := s.faults.records.set u.idx.val r u.idx.isLt } }

/-- A fault report (R183): nothing when the kind is not enabled; a clear record is filled and FAULT_LOGGED goes to
both ports; a valid one gets its overflow set. -/
def logFault (u : FaultUnit) (k : FaultKind) (detail : Nat) (s : State) : State :=
  if s.faults.enabled u k then
    let r := s.faults.records.get u.idx
    if r.valid then setFaultRecord u { r with overflow := true } s
    else
      notifyBoth .faultLogged
        [⟨0, 1, u.idx.val⟩, ⟨1, 1, k.code⟩, ⟨8, 8, detail⟩, ⟨16, 8, s.faults.newest⟩]
        (setFaultRecord u
          { valid := true, overflow := false, kind := k.code, detail := BitVec.ofNat 64 detail,
            frame := s.faults.newest } s)
  else s

/-! ## Free values -/

/-- The frame index the spec states, or a free value where it states none (log entry 8). -/
def indexOrFree (known : Option Nat) (s : State) : Nat × State :=
  match known with
  | some n => (n, s)
  | none => ((Config.freeFrameIndex s.freeCount).toNat, { s with freeCount := s.freeCount + 1 })

end Sys2Proof.Machine
end

