-- ==== Sys2Proof/Machine/Operands.lean ====
section
/-! DEFINITION. What a request entry says: its code, its bytes fixed at zero and its parameters (R171, R188, R189), and
the checking of a configuration record (R153, R154). -/

namespace Sys2Proof.Machine

/-! ## Request entries -/

/-- The parameter bytes a request's layout names, as (offset, size) of the entry (R188, R189); none for a code of no
request. PLACE_HOLD without a window has its window base and size fixed at zero. -/
def namedParams (code : Nat) (entry : List Byte) : Option (List (Nat × Nat)) :=
  match code with
  | 0x01 => some []
  | 0x02 => some []
  | 0x03 => some [(8, 4)]
  | 0x04 => some [(8, 4)]
  | 0x08 =>
    if fieldAt entry 17 1 = 0 then some [(8, 4), (12, 4), (16, 1), (17, 1), (18, 2)]
    else some [(8, 4), (12, 4), (16, 1), (17, 1), (18, 2), (24, 8), (32, 8)]
  | 0x09 => some [(8, 1), (10, 2)]
  | 0x0A => some [(8, 1), (10, 2)]
  | 0x0B => some [(8, 1)]
  | 0x10 => some []
  | 0x11 => some []
  | 0x12 => some [(8, 8), (16, 4)]
  | 0x18 => some []
  | 0x19 => some []
  | 0x1A => some []
  | 0x20 => some [(8, 32)]
  | 0x21 => some [(8, 4), (12, 1)]
  | 0x22 => some []
  | 0x23 => some []
  | 0x24 => some []
  | 0x28 => some [(8, 1), (9, 1)]
  | 0x29 => some []
  | 0x2A => some [(8, 1)]
  | 0x2B => some [(8, 1), (9, 1)]
  | _ => none

/-- Is offset `i` of an entry one that may be other than zero: the code, the tag, or a named parameter byte? -/
def namedOffset (named : List (Nat × Nat)) (i : Nat) : Bool :=
  i = 0 || i = 2 || i = 3 || named.any (fun f => decide (f.1 ≤ i) && decide (i < f.1 + f.2))

/-- The offset of the first fixed byte of an entry that is not zero (R171). -/
def firstNonZeroFixed (named : List (Nat × Nat)) (entry : List Byte) : Option Nat :=
  (List.range 64).find? (fun i => !namedOffset named i && decide (fieldAt entry i 1 ≠ 0))

/-- The CONFIGURE parameters (R189). -/
def rawConfig (e : List Byte) : RawConfig :=
  { mode := fieldAt e 8 1, pairModes := fieldAt e 9 1, enables := fieldAt e 10 1, codings := fieldAt e 11 1,
    pre := fieldAt e 12 4, post := fieldAt e 16 4, span := fieldAt e 20 2, rawLatency := fieldAt e 22 2,
    holdoff := fieldAt e 24 4, rearm := fieldAt e 28 1, early := fieldAt e 29 1, markEnables := fieldAt e 30 1,
    archReq := fieldAt e 31 1, retention := fieldAt e 32 1, hiMark := fieldAt e 33 1, loMark := fieldAt e 34 1,
    order := fieldAt e 35 1, flush := fieldAt e 36 2, buffersLow := fieldAt e 38 1, startAlign := fieldAt e 39 1 }

/-- The request of an entry that has passed the checks (R188). -/
def entryRequest (e : List Byte) : Option Request :=
  match fieldAt e 0 1 with
  | 0x01 => some .describe
  | 0x02 => some .querySpan
  | 0x03 => some (.queryRecord (fieldAt e 8 4))
  | 0x04 => some (.queryMarks (fieldAt e 8 4))
  | 0x08 =>
    some (.placeHold
      { first := fieldAt e 8 4, last := fieldAt e 12 4, kind := fieldAt e 16 1, interval := fieldAt e 18 2,
        window := if fieldAt e 17 1 = 0 then none
          else some { base := fieldAt e 24 8, size := fieldAt e 32 8 } })
  | 0x09 => some (.renewHold (fieldAt e 8 1) (BitVec.ofNat 16 (fieldAt e 10 2)))
  | 0x0A => some (.releaseHold (fieldAt e 8 1) (BitVec.ofNat 16 (fieldAt e 10 2)))
  | 0x0B => some (.queryHolds (decide (fieldAt e 8 1 ≠ 0)))
  | 0x10 => some .bindArchive
  | 0x11 => some .unbindArchive
  | 0x12 => some (.supplyBuffer (BitVec.ofNat 64 (fieldAt e 8 8)) (fieldAt e 16 4))
  | 0x18 => some .arm
  | 0x19 => some .disarm
  | 0x1A => some .forceTrigger
  | 0x20 => some (.configure (rawConfig e))
  | 0x21 => some (.start (BitVec.ofNat 32 (fieldAt e 8 4)) (decide (fieldAt e 12 1 ≠ 0)))
  | 0x22 => some .stop
  | 0x23 => some .abort
  | 0x24 => some .resetPart
  | 0x28 => some (.readCounters (fieldAt e 8 1) (decide (fieldAt e 9 1 ≠ 0)))
  | 0x29 => some .readFaults
  | 0x2A => some (.clearFaults (BitVec.ofNat 8 (fieldAt e 8 1)))
  | 0x2B => some (.setFaultEnable (fieldAt e 8 1) (BitVec.ofNat 8 (fieldAt e 9 1)))
  | _ => none

/-- What the port unit's checks say of an entry (R171). -/
inductive EntryCheck where
  | unknown
  | malformed (off : Nat)
  | request (r : Request)
deriving DecidableEq, Repr

/-- The checks of R171, in their order. -/
def checkEntry (e : List Byte) : EntryCheck :=
  match namedParams (fieldAt e 0 1) e, entryRequest e with
  | some named, some r =>
    match firstNonZeroFixed named e with
    | some i => .malformed i
    | none => .request r
  | _, _ => .unknown

/-! ## The slot setup (R128) -/

/-- The slots of pair k (R128). -/
def pairSlots (modes : Vector PairMode 4) (enables : Vector Bool 8) (codings : Vector Coding 8) (k : Fin 4) :
    List SlotDesc :=
  let a : Fin 8 := ⟨2 * k.val, by omega⟩
  let b : Fin 8 := ⟨2 * k.val + 1, by omega⟩
  match modes.get k with
  | .separate =>
    (if enables.get a then [{ source := .channel a, coding := codings.get a }] else []) ++
      (if enables.get b then [{ source := .channel b, coding := codings.get b }] else [])
  | .differential => if enables.get a then [{ source := .pair k, coding := codings.get a }] else []

/-- The slot setup: pair by pair from pair 0 to pair 3 (R128). -/
def slotSetup (modes : Vector PairMode 4) (enables : Vector Bool 8) (codings : Vector Coding 8) : List SlotDesc :=
  pairSlots modes enables codings 0 ++ pairSlots modes enables codings 1 ++ pairSlots modes enables codings 2 ++
    pairSlots modes enables codings 3

/-- The slot setup of a configuration. -/
def ConfigRec.setup (c : ConfigRec) : List SlotDesc := slotSetup c.pairModes c.enables c.codings

/-- Frames per block (R25). -/
def framesPerBlock (frameSize : Nat) : Nat := Config.blockBytes / frameSize

/-! ## The configuration record -/

/-- Bit i of a field's byte. -/
def natBit (n i : Nat) : Bool := (n / 2 ^ i) % 2 = 1

/-- The pair modes byte (R189). -/
def pairModesOf (n : Nat) : Vector PairMode 4 :=
  let m (i : Nat) : PairMode := if natBit n i then .differential else .separate
  #v[m 0, m 1, m 2, m 3]

/-- The channel enables byte (R189). -/
def enablesOf (n : Nat) : Vector Bool 8 :=
  #v[natBit n 0, natBit n 1, natBit n 2, natBit n 3, natBit n 4, natBit n 5, natBit n 6, natBit n 7]

/-- The codings byte (R189). -/
def codingsOf (n : Nat) : Vector Coding 8 :=
  let c (i : Nat) : Coding := if natBit n i then .unsigned else .signed
  #v[c 0, c 1, c 2, c 3, c 4, c 5, c 6, c 7]

/-- Slots that fields 2 and 3 give (R128). -/
def RawConfig.slots (r : RawConfig) : Nat :=
  (slotSetup (pairModesOf r.pairModes) (enablesOf r.enables) (codingsOf r.codings)).length

/-- Does field `n` of R153 hold a legal value, given the lower-numbered fields (R153, R154)? -/
def RawConfig.legal (r : RawConfig) (n : Nat) : Bool :=
  match n with
  | 1 => decide (r.mode ≤ 1)
  | 2 => decide (r.pairModes < 16)
  | 3 => decide (1 ≤ r.slots)
  | 4 => true
  | 5 => decide (r.pre ≤ 16777215)
  | 6 => decide (1 ≤ r.post) && decide (r.pre + r.post ≤ 1024 * framesPerBlock (2 * r.slots))
  | 7 => decide (1 ≤ r.span) && decide (r.span ≤ 256)
  | 8 => true
  | 9 => decide (r.rearm ≤ 1)
  | 10 => decide (r.early ≤ 1)
  | 11 => true
  | 12 => decide (r.markEnables < 4)
  | 13 => decide (r.archReq ≤ 1)
  | 14 => decide (r.retention ≤ 1)
  | 15 => decide (1 ≤ r.hiMark) && decide (r.hiMark ≤ 15)
  | 16 => decide (1 ≤ r.loMark) && decide (r.loMark ≤ 15) && decide (r.loMark < r.hiMark)
  | 17 => decide (r.order ≤ 1)
  | 18 => true
  | 19 => decide (r.buffersLow ≤ 63)
  | 20 => decide (r.startAlign ≤ 1)
  | _ => true

/-- The field numbers of R153, in increasing order. -/
def configFields : List Nat := [1, 2, 3, 4, 5, 6, 7, 8, 9, 10, 11, 12, 13, 14, 15, 16, 17, 18, 19, 20]

/-- The lowest field that holds an illegal value (R154). -/
def RawConfig.badField (r : RawConfig) : Option Nat := configFields.find? (fun n => !r.legal n)

/-- The configuration record of legal parameters (R153, R189). -/
def RawConfig.record (r : RawConfig) : ConfigRec :=
  { mode := if r.mode = 0 then .segmented else .continuous
    pairModes := pairModesOf r.pairModes, enables := enablesOf r.enables, codings := codingsOf r.codings
    pre := r.pre, post := r.post, span := r.span, holdoff := r.holdoff
    rearm := if r.rearm = 0 then .auto else .single
    early := if r.early = 0 then .accept else .ignore
    rawLatency := r.rawLatency
    markMain := natBit r.markEnables 0, markAux := natBit r.markEnables 1
    archReq := decide (r.archReq = 1)
    retention := if r.retention = 0 then .lossless else .latest
    hiMark := r.hiMark, loMark := r.loMark
    order := if r.order = 0 then .normal else .viewFirst
    flush := r.flush, buffersLow := r.buffersLow
    startAlign := if r.startAlign = 0 then .group else .frame }

end Sys2Proof.Machine
end

