-- ==== Sys2Proof/Machine/Catalog.lean ====
section
/-! DEFINITION. The record catalog (01_the_record_catalog.md): its head and tail, the changes its entries take, and the
offers it makes to a waiting writer. -/

namespace Sys2Proof.Machine

/-! ## Reading -/

/-- The head number (R1, R2). -/
def Catalog.head (c : Catalog) : Nat :=
  match c.entries with
  | [] => c.next
  | e :: _ => e.number

/-- The tail number (R1, R2). -/
def Catalog.tail (c : Catalog) : Nat :=
  match c.entries.getLast? with
  | none => c.next - 1
  | some e => e.number

/-- The entry of a number. -/
def Catalog.find (c : Catalog) (n : Nat) : Option Entry := c.entries.find? (fun e => e.number = n)

/-- The OPEN entry (R12: at most one). -/
def Catalog.openEntry (c : Catalog) : Option Entry := c.entries.find? (fun e => e.state = .opened)

/-- The DATA fields of an entry. -/
def Entry.data? (e : Entry) : Option DataFields :=
  match e.body with
  | .data d => some d
  | .gap _ => none

/-- Is the entry a DATA entry? -/
def Entry.isData (e : Entry) : Bool := e.data?.isSome

/-- Bytes of a record (R57): its frame count times its frame size. -/
def DataFields.bytes (d : DataFields) : Nat := d.frames * d.frameSize

/-! ## Offers to a waiting writer -/

/-- Does the waiting request ask for a block? -/
def WaitRequest.isBlock : WaitRequest → Bool
  | .takeBlock => true
  | _ => false

/-- An event of R35: a waiting take-block request is offered again. -/
def offerBlock (s : State) : State :=
  if s.writer.state = .starved && s.writer.waiting.any WaitRequest.isBlock then
    { s with writer := { s.writer with offered := true } }
  else s

/-- An event of R20: a waiting request for an entry is offered again. -/
def offerEntry (s : State) : State :=
  if s.writer.state = .starved && s.writer.waiting.any (fun w => !w.isBlock) then
    { s with writer := { s.writer with offered := true } }
  else s

/-! ## Changing entries -/

/-- Replace the entries. -/
def setEntries (es : List Entry) (s : State) : State := { s with catalog := { s.catalog with entries := es } }

/-- Change the entry of a number, if the catalog holds it. -/
def updateEntry (n : Nat) (f : Entry → Entry) (s : State) : State :=
  setEntries (s.catalog.entries.map (fun e => if e.number = n then f e else e)) s

/-- Change the DATA fields of an entry. -/
def Entry.mapData (f : DataFields → DataFields) (e : Entry) : Entry :=
  match e.body with
  | .data d => { e with body := .data (f d) }
  | .gap _ => e

/-- Remove the RETIRED entries at the head (R18); each removal is an event of R20. -/
def removeHeads (s : State) : State :=
  let gone := (s.catalog.entries.takeWhile (fun e => e.state = .retired)).length
  if gone = 0 then s
  else
    offerEntry
      (countCatalog (fun c => { c with headRemovals := sat c.headRemovals gone })
        (setEntries (s.catalog.entries.drop gone) s))

/-- A state change of entry `n`; when it is the head, an event of R20. -/
def setEntryState (n : Nat) (st : EntryState) (s : State) : State :=
  let s1 := updateEntry n (fun e => { e with state := st }) s
  if s.catalog.head = n then offerEntry s1 else s1

/-- A record gives up its blocks (R7, R16, R17). -/
def DataFields.dropBlocks (d : DataFields) : DataFields := { d with firstBlock := none, blockCount := 0 }

/-- Entry `n` becomes LOST with no blocks, counted as lost (R16). -/
def loseEntry (n : Nat) (s : State) : State :=
  countCatalog (fun c => { c with lost := sat c.lost 1 })
    (setEntryState n .lost (updateEntry n (Entry.mapData DataFields.dropBlocks) s))

/-- Entry `n` becomes RETIRED with no blocks, counted as retired (R15, R17), and the RETIRED head is removed (R18). -/
def retireEntry (n : Nat) (s : State) : State :=
  removeHeads
    (countCatalog (fun c => { c with retired := sat c.retired 1 })
      (setEntryState n .retired (updateEntry n (Entry.mapData DataFields.dropBlocks) s)))

/-- A growth report (R7): the frame count, the block count, and the first block if the record had none. -/
def growEntry (n frames blocks : Nat) (first : Option Nat) (s : State) : State :=
  updateEntry n
    (Entry.mapData (fun d =>
      { d with frames := frames, blockCount := blocks, firstBlock := d.firstBlock.or first })) s

/-- The seal request for the OPEN entry (R14), with the first block of a record that had none (R30; log entry 42).
With no entry OPEN it is refused with NOT_OPEN and logged. -/
def sealEntry (frames blocks : Nat) (first : Option Nat) (truncating : Bool) (s : State) : State :=
  match s.catalog.openEntry with
  | none => logFault .writer .notOpen 0 s
  | some e =>
    countCatalog
      (fun c =>
        { c with
          sealed := sat c.sealed 1
          truncated := if truncating then sat c.truncated 1 else c.truncated })
      (setEntryState e.number .sealed
        (updateEntry e.number (Entry.mapData (fun d => { d with truncated := d.truncated || truncating }))
          (growEntry e.number frames blocks first s)))

/-- How the catalog answers a mark request (R9). -/
inductive MarkAnswer where
  | kept
  | overflowed
  | late
deriving DecidableEq, Repr

/-- A mark request (R9). -/
def requestMark (n : Nat) (m : Mark) (s : State) : MarkAnswer × State :=
  match s.catalog.find n with
  | some e =>
    match e.data? with
    | some d =>
      if e.state = .opened then
        if d.marks.length < Config.marksKept then
          (.kept, updateEntry n (Entry.mapData (fun d => { d with marks := d.marks ++ [m] })) s)
        else
          (.overflowed,
            updateEntry n
              (Entry.mapData (fun d => { d with markOverflow := min (d.markOverflow + 1) Config.markOverflowMax })) s)
      else (.late, s)
    | none => (.late, s)
  | none => (.late, s)

/-- A DAMAGED request made in epoch `epoch` (R10, R68): no effect when the entry is gone. -/
def damageEntry (n : Nat) (epoch : BitVec 16) (s : State) : State :=
  if s.catalog.epoch = epoch then updateEntry n (Entry.mapData (fun d => { d with damaged := true })) s else s

/-- A RESUMED_ARCHIVE request (R10): a DATA entry in SEALED or LOST state. -/
def resumeEntry (n : Nat) (s : State) : State :=
  updateEntry n
    (fun e =>
      if e.state = .sealed || e.state = .lost then e.mapData (fun d => { d with resumedArchive := true }) else e) s

/-! ## Size buckets (R179) -/

/-- The size bucket of a block count. -/
def sizeBucket (blocks : Nat) : Fin 6 :=
  if blocks = 0 then 0 else if blocks = 1 then 1 else if blocks ≤ 3 then 2 else if blocks ≤ 15 then 3
  else if blocks ≤ 63 then 4 else 5

/-- The completion of entry `n` by the archive engine (R15). An entry in another state is refused and logged; for a
number with no entry nothing changes (R4). -/
def completeEntry (n : Nat) (s : State) : State :=
  match s.catalog.find n with
  | none => s
  | some e =>
    match e.body, e.state with
    | .data d, .sealed =>
      if e.archReq then
        offerBlock
          (countArchive
            (fun c =>
              { c with
                buckets := c.buckets.set (sizeBucket d.blockCount).val
                  (sat (c.buckets.get (sizeBucket d.blockCount)) 1) (sizeBucket d.blockCount).isLt })
            (setEntryState n .archived s))
      else logFault .archive .completionRefused n s
    | .data _, .lost => retireEntry n s
    | .gap _, .sealed => retireEntry n s
    | _, _ => logFault .archive .completionRefused n s

end Sys2Proof.Machine
end

