-- ==== Sys2Proof/Machine/Holds.lean ====
section
/-! DEFINITION. The hold table (03_holds_and_read_windows.md): coverage, the end of a hold, revocation and the decoding of
windows. -/

namespace Sys2Proof.Machine

/-- The slot numbers of a port. -/
def slots16 : List (Fin 16) := [0, 1, 2, 3, 4, 5, 6, 7, 8, 9, 10, 11, 12, 13, 14, 15]

/-- The hold in a slot; none for a FREE slot (R44). -/
def HoldBank.hold (b : HoldBank) (i : Fin 16) : Option Hold := b.slots.get i

/-- A hold covers the entries between its first and last record (R46). -/
def Hold.covers (h : Hold) (n : Nat) : Bool := decide (h.first ≤ n) && decide (n ≤ h.last)

/-- Does some ACTIVE hold of the port that satisfies `q` cover entry `n`? -/
def HoldBank.covered (b : HoldBank) (q : Hold → Bool) (n : Nat) : Bool :=
  slots16.any (fun i => (b.hold i).any (fun h => q h && h.covers n))

/-- An ACTIVE hold of either port covers entry `n` (R46). -/
def State.held (s : State) (n : Nat) : Bool :=
  s.bank0.covered (fun _ => true) n || s.bank1.covered (fun _ => true) n

/-- An ACTIVE FIRM hold of either port covers entry `n` (R46). -/
def State.firmHeld (s : State) (n : Nat) : Bool :=
  s.bank0.covered (fun h => h.kind = .firm) n || s.bank1.covered (fun h => h.kind = .firm) n

/-- Some slot of the port is ACTIVE. -/
def HoldBank.active (b : HoldBank) : Bool := slots16.any (fun i => (b.hold i).isSome)

/-- The lowest FREE slot (R48). -/
def HoldBank.freeSlot (b : HoldBank) : Option (Fin 16) := slots16.find? (fun i => (b.hold i).isNone)

/-- Put a hold in a slot, or free it. -/
def HoldBank.setSlot (b : HoldBank) (i : Fin 16) (h : Option Hold) : HoldBank :=
  { b with slots := b.slots.set i.val h i.isLt }

/-- A slot becomes FREE; the block map and the catalog are told (R46), which are events of R35 and, when the hold
covered the head, of R20. -/
def freeHold (p : Port) (i : Fin 16) (s : State) : State :=
  match (s.bank p).hold i with
  | none => s
  | some h =>
    let s1 := offerBlock (s.setBank p ((s.bank p).setSlot i none))
    if h.covers s.catalog.head then offerEntry s1 else s1

/-- Revoke the hold of one slot if it is YIELDING and covers `n` (R54), counting in `acc`. -/
def revokeSlot (p : Port) (n : Nat) (acc : Nat × State) (i : Fin 16) : Nat × State :=
  match (acc.2.bank p).hold i with
  | none => acc
  | some h =>
    if h.kind = .yielding && h.covers n then
      (acc.1 + 1,
        notify p .holdRevoked [⟨0, 1, i.val⟩, ⟨2, 2, h.tag.toNat⟩, ⟨4, 4, n⟩]
          (countHolds (fun c => { c with revoked := sat c.revoked 1 }) (freeHold p i acc.2)))
    else acc

/-- The revocation request for entry `n` (R54): how many holds were revoked, and the state after. R37 and R54 give the
revocations no order: Port 0's slots ascending, then Port 1's (DESIGN CHOICE, log entry 21). -/
def revokeHolds (n : Nat) (s : State) : Nat × State :=
  slots16.foldl (revokeSlot .p1 n) (slots16.foldl (revokeSlot .p0 n) (0, s))

/-! ## Windows -/

/-- The legal geometry of a window (R57). -/
def Window.legal (w : Window) : Bool :=
  decide (w.base % Config.blockBytes = 0) &&
    (List.range 14).any (fun i => w.size = Config.blockBytes * 2 ^ i) &&
    decide (w.base + w.size ≤ Config.apertureBytes)

/-- The window contains the aperture address. -/
def Window.contains (w : Window) (a : Nat) : Bool := decide (w.base ≤ a) && decide (a < w.base + w.size)

/-- The ACTIVE slots of a port whose windows contain an aperture address, lowest first (R58). -/
def HoldBank.answering (b : HoldBank) (a : Nat) : List (Fin 16) :=
  slots16.filter (fun i => (b.hold i).any (fun h => h.window.any (fun w => w.contains a)))

end Sys2Proof.Machine
end

