-- ==== Sys2Proof/Machine/Blocks.lean ====
section
/-! DEFINITION. The block map (02_capture_blocks_and_reclaim.md): chains, the free list, reclaim, head reclaim and suspect
blocks, and the asking of a new catalog entry (R12, R13, R20). -/

namespace Sys2Proof.Machine

/-! ## The block table -/

/-- The table entry of a block. -/
def BlockMap.get (m : BlockMap) (b : Nat) : Block := if h : b < 8192 then m.table.get ⟨b, h⟩ else Block.fresh

/-- Change the table entry of a block. -/
def BlockMap.modify (m : BlockMap) (b : Nat) (f : Block → Block) : BlockMap :=
  if h : b < 8192 then { m with table := m.table.set b (f (m.table.get ⟨b, h⟩)) h } else m

/-- Change the table entry of a block. -/
def modifyBlock (b : Nat) (f : Block → Block) (s : State) : State := { s with blocks := s.blocks.modify b f }

/-- The blocks reached from `first` through the next-block fields, at most `fuel` of them (R30). -/
def BlockMap.chain (m : BlockMap) : Nat → Option Nat → List Nat
  | 0, _ => []
  | _ + 1, none => []
  | fuel + 1, some b => b :: m.chain fuel (m.get b).next

/-- The chain that begins at a block. -/
def State.chainOf (s : State) (first : Option Nat) : List Nat := s.blocks.chain Config.blockCount first

/-! ## Returning blocks -/

/-- A block becomes FAULTY (R41). Its suspect flag is set (log entry 32). -/
def retireBlock (b : Nat) (s : State) : State :=
  let s1 := modifyBlock b (fun _ => { state := .faulty, next := none, owner := none, held := 0, suspect := true }) s
  logFault .memory .blockRetired b
    (countMemory (fun c => { c with blocksRetired := sat c.blocksRetired 1 })
      { s1 with blocks := { s1.blocks with faulty := s1.blocks.faulty + 1 } })

/-- A block leaves its chain: to the free list tail as FREE (an event of R35), or FAULTY when suspect (R33, R38, R41). -/
def returnBlock (b : Nat) (s : State) : State :=
  if (s.blocks.get b).suspect then retireBlock b s
  else
    let s1 := modifyBlock b (fun k => { k with state := .free, next := none, owner := none, held := 0 }) s
    offerBlock { s1 with blocks := { s1.blocks with free := s1.blocks.free ++ [b] } }

/-- The blocks of a chain are returned, in chain order. -/
def returnChain (bs : List Nat) (s : State) : State := bs.foldl (fun s b => returnBlock b s) s

/-- A release of one provisional block (R33): NOT_PROVISIONAL, logged, for a block that is in no provisional chain. -/
def releaseBlock (s : State) (b : Nat) : State :=
  let k := s.blocks.get b
  if (k.state = .filling || k.state = .stored) && k.owner.isNone then returnBlock b s
  else logFault .writer .notProvisional b s

/-- Provisional blocks are released, in chain order (R33). -/
def releaseBlocks (bs : List Nat) (s : State) : State := bs.foldl releaseBlock s

/-- The blocks of the provisional chain take an owner (R34). -/
def adoptBlocks (n : Nat) (bs : List Nat) (s : State) : State :=
  bs.foldl (fun s b => modifyBlock b (fun k => { k with owner := some n }) s) s

/-- A growth report (R32): the frames held of the FILLING block, STORED once they are the frames per block. -/
def growBlock (b held perBlock : Nat) (s : State) : State :=
  modifyBlock b
    (fun k => { k with held := held, state := if k.state = .filling && perBlock ≤ held then .stored else k.state }) s

/-- A seal makes the last block STORED if it is FILLING (R32). -/
def storeBlock (b : Option Nat) (s : State) : State :=
  match b with
  | none => s
  | some b => modifyBlock b (fun k => { k with state := if k.state = .filling then .stored else k.state }) s

/-- A suspect mark (R41). -/
def suspectMark (b : Nat) (s : State) : State :=
  match (s.blocks.get b).state with
  | .filling => modifyBlock b (fun k => { k with suspect := true }) s
  | .stored => modifyBlock b (fun k => { k with suspect := true }) s
  | .free =>
    retireBlock b { s with blocks := { s.blocks with free := s.blocks.free.filter (fun x => x ≠ b) } }
  | .faulty => s

/-! ## Reclaim -/

/-- The candidate test (R36), without the block count. -/
def State.candidate (s : State) (e : Entry) : Bool :=
  match e.body with
  | .gap _ => false
  | .data d =>
    (e.state = .sealed || e.state = .archived) && decide (s.engine.claim ≠ some e.number) &&
      !s.firmHeld e.number && (e.state = .archived || !e.archReq || d.retention = .latest)

/-- The candidate test of a scan for a block need (R36). -/
def State.blockCandidate (s : State) (e : Entry) : Bool :=
  s.candidate e && e.data?.any (fun d => decide (1 ≤ d.blockCount))

/-- Reclaim of a candidate (R38), with the revocations of R37. -/
def takeRecord (e : Entry) (occasion : Occasion) (s : State) : State :=
  match e.body with
  | .gap _ => s
  | .data d =>
    let (revoked, s1) := revokeHolds e.number s
    let chain := s1.chainOf d.firstBlock
    let toLost : Bool := e.state = .sealed && e.archReq
    let s2 := if toLost then loseEntry e.number s1 else retireEntry e.number s1
    let s3 := returnChain chain s2
    countMemory (fun c => { c with reclaims := sat c.reclaims 1 })
      { s3 with
        blocks :=
          { s3.blocks with
            last :=
              some
                { number := e.number, occasion := occasion, blockCount := d.blockCount, lost := toLost,
                  revoked := revoked, frame := s3.faults.newest } } }

/-- One failed reclaim, not counted for a repeat (R35, R40). -/
def reclaimFailed (isRepeat : Bool) (s : State) : State :=
  if isRepeat then s else countMemory (fun c => { c with reclaimFailures := sat c.reclaimFailures 1 }) s

/-- The record a scan for a block need takes (R37): pass one, then pass two. -/
def State.scan (s : State) : Option Entry :=
  (s.catalog.entries.find? (fun e => s.blockCandidate e && !s.held e.number)).or
    (s.catalog.entries.find? s.blockCandidate)

/-- Scans until the free list holds a block or a scan fails (R35). Every scan that takes a record leaves one candidate
fewer, so the catalog's length bounds them. -/
def reclaimLoop (isRepeat : Bool) : Nat → State → State
  | 0, s => s
  | fuel + 1, s =>
    match s.blocks.free with
    | _ :: _ => s
    | [] =>
      match s.scan with
      | none => reclaimFailed isRepeat s
      | some e => reclaimLoop isRepeat fuel (takeRecord e .blockNeed s)

/-- Head reclaim (R40), asked when the head is a DATA entry in SEALED or ARCHIVED state (R20). -/
def headReclaim (isRepeat : Bool) (s : State) : State :=
  match s.catalog.entries with
  | [] => s
  | e :: _ =>
    if e.isData && (e.state = .sealed || e.state = .archived) then
      if s.candidate e then takeRecord e .catalogFull s else reclaimFailed isRepeat s
    else s

/-! ## Taking a block -/

/-- How the block map answers a take-block request. -/
inductive TakeAnswer where
  | served (b : Nat)
  | noBlock
  | stillFilling
deriving DecidableEq, Repr

/-- The block at the head of the free list joins a chain (R31). -/
def serveBlock (owner lastBlock : Option Nat) (s : State) : TakeAnswer × State :=
  match s.blocks.free with
  | [] => (.noBlock, s)
  | b :: rest =>
    let s1 := { s with blocks := { s.blocks with free := rest } }
    let s2 := modifyBlock b (fun k => { k with state := .filling, next := none, owner := owner, held := 0 }) s1
    match lastBlock with
    | none => (.served b, s2)
    | some l => (.served b, modifyBlock l (fun k => { k with next := some b }) s2)

/-- A take-block request (R31, R35) for the provisional chain (no owner) or the OPEN record. -/
def takeBlock (owner lastBlock : Option Nat) (isRepeat : Bool) (s : State) : TakeAnswer × State :=
  match lastBlock with
  | some l =>
    if (s.blocks.get l).state = .filling then (.stillFilling, logFault .writer .stillFilling l s)
    else serveBlock owner lastBlock (reclaimLoop isRepeat (s.catalog.entries.length + 1) s)
  | none => serveBlock owner lastBlock (reclaimLoop isRepeat (s.catalog.entries.length + 1) s)

/-! ## Asking for an entry -/

/-- How the catalog answers a request for a new entry (R2, R12, R13, R20). -/
inductive EntryAnswer where
  | accepted (n : Nat)
  | refused
  | openExists
deriving DecidableEq, Repr

/-- The catalog accepts an entry (R12, R13): it joins the tail with the next record number. -/
def joinEntry (st : EntryState) (archReq : Bool) (body : Body) (s : State) : EntryAnswer × State :=
  let n := s.catalog.next
  let e : Entry := { number := n, state := st, session := s.catalog.session, archReq := archReq, body := body }
  let s1 := { s with catalog := { s.catalog with entries := s.catalog.entries ++ [e], next := n + 1 } }
  (.accepted n,
    removeHeads
      (countCatalog
        (fun c =>
          match body with
          | .data _ => { c with opened := sat c.opened 1 }
          | .gap _ => { c with gaps := sat c.gaps 1 }) s1))

/-- The full-catalog path (R20): head reclaim, then the room it made or FULL, the first refusal counted as a stall. -/
def askFull (st : EntryState) (archReq : Bool) (body : Body) (isRepeat : Bool) (s : State) : EntryAnswer × State :=
  let s1 := headReclaim isRepeat s
  if s1.catalog.entries.length < Config.catalogEntries then joinEntry st archReq body s1
  else
    (.refused,
      if isRepeat then s1 else countCatalog (fun c => { c with fullStalls := sat c.fullStalls 1 }) s1)

/-- A request for a new entry (R12, R13, R20): NUMBERS, then OPEN_EXISTS for an opening, then FULL (log entry 24). -/
def askEntry (st : EntryState) (archReq : Bool) (body : Body) (isRepeat : Bool) (s : State) :
    EntryAnswer × State :=
  if Config.lastRecordNumber < s.catalog.next then (.refused, s)
  else
    match st, s.catalog.openEntry with
    | .opened, some e => (.openExists, logFault .writer .openExists e.number s)
    | _, _ =>
      if s.catalog.entries.length < Config.catalogEntries then joinEntry st archReq body s
      else askFull st archReq body isRepeat s

end Sys2Proof.Machine
end

