-- ==== Sys2Proof/Machine/Memory.lean ====
section
/-! DEFINITION. The memory service (08_memory_service.md): ECC granules, read and write bursts, the arbiter and refresh. -/

namespace Sys2Proof.Machine

/-! ## Granules (R140, R146; log entry 5) -/

/-- A bit of the DRAM flips. -/
def toggleFlip (k : Nat × Nat) (fs : List (Nat × Nat)) : List (Nat × Nat) :=
  if fs.contains k then fs.erase k else k :: fs

/-- The granule of a capture address. -/
def granuleOf (a : Nat) : Nat := a / Config.granuleBytes

/-- A granule holds payload bytes of the DATA frame in production. -/
def DataFrame.holds (f : DataFrame) (g : Nat) : Bool :=
  f.runs.any (fun r => decide (granuleOf r.1 ≤ g) && decide (g ≤ granuleOf (r.1 + r.2 - 1)))

/-- The engine's DATA frame in production holds a granule. -/
def Engine.holdsGranule (e : Engine) (g : Nat) : Bool := e.progress.frame.any (fun f => f.holds g)

/-- The bits that have flipped by the completion of a burst: those that its command brings and those that earlier ones left
over. A bit of a granule of the DATA frame in production flips at the completion of the first burst at which no such frame
holds the granule (DESIGN CHOICE, log entry 5), since that frame's header, issued before its payload (R81), shows how the
payload reads (R79, R80). -/
def strikeAll (ks : List Strike) (s : State) : State :=
  let all := s.mem.late ++ ks.map (fun k => (k.granule.val, k.bit.val))
  { s with
    mem :=
      { s.mem with
        flipped := (all.filter (fun k => !s.engine.holdsGranule k.1)).foldl (fun fs k => toggleFlip k fs) s.mem.flipped
        late := all.filter (fun k => s.engine.holdsGranule k.1) } }

/-- How many bits of a granule and its code word have flipped since the code word was written. -/
def MemService.flips (m : MemService) (g : Nat) : Nat := (m.flipped.filter (fun k => k.1 = g)).length

/-- The granules that contain a byte of a burst, in increasing order (R146). -/
def granulesOf (addr len : Nat) : List Nat :=
  natsFrom (granuleOf addr) (granuleOf (addr + len - 1) + 1 - granuleOf addr)

/-- The mask of the flipped bits of one byte. -/
def MemService.flipMask (m : MemService) (a : Nat) : Byte :=
  m.flipped.foldl
    (fun v k => if k.1 = granuleOf a ∧ k.2 / 8 = a % Config.granuleBytes then v ^^^ (1 <<< (k.2 % 8)) else v) 0

/-- A byte as stored (R146): what was written. -/
def MemService.stored (m : MemService) (a : Nat) : Byte := Memory.read a m.cells

/-- A byte as read, with no correction. -/
def MemService.asRead (m : MemService) (a : Nat) : Byte := m.stored a ^^^ m.flipMask a

/-- A byte as a read burst returns it (R146): corrected, or as read in an uncorrectable granule. -/
def MemService.returned (m : MemService) (a : Nat) : Byte :=
  if 2 ≤ m.flips (granuleOf a) then m.asRead a else m.stored a

/-- What a read burst returns (R146, R147): its data, the granules corrected and the uncorrectable granules. -/
structure ReadResult where
  data : List Byte
  corrected : Nat
  bad : List Nat
deriving DecidableEq, Repr

/-- The read of a burst (R146). -/
def MemService.readBurst (m : MemService) (addr len : Nat) : ReadResult :=
  { data := (natsFrom addr len).map m.returned
    corrected := ((granulesOf addr len).filter (fun g => m.flips g = 1)).length
    bad := (granulesOf addr len).filter (fun g => 2 ≤ m.flips g) }

/-- The merge of R148: the bytes of a touched granule become what an unchecked read of it gives, under a new code
word. -/
def mergeGranule (m : MemService) (g : Nat) : MemService :=
  { m with
    cells :=
      (m.flipped.filter (fun k => k.1 = g && decide (k.2 < 256))).foldl
        (fun cs k =>
          Memory.write (g * Config.granuleBytes + k.2 / 8)
            (Memory.read (g * Config.granuleBytes + k.2 / 8) cs ^^^ (1 <<< (k.2 % 8))) cs) m.cells
    flipped := m.flipped.filter (fun k => k.1 ≠ g) }

/-- A write burst (R148). -/
def MemService.writeBurst (m : MemService) (addr : Nat) (bytes : List Byte) : MemService :=
  let m1 := (granulesOf addr bytes.length).foldl mergeGranule m
  { m1 with cells := Memory.writeRun addr bytes m1.cells }

/-- The memory service once the write burst in progress, if one is, has written its bytes. -/
def MemService.afterWrite (m : MemService) : MemService :=
  match m.busy with
  | some (.writer b) => m.writeBurst b.addr b.bytes
  | some (.stray b) => m.writeBurst b.addr b.bytes
  | _ => m

/-- The block of a granule, and its offset in the block (R140). -/
def granuleBlock (g : Nat) : Nat := g * Config.granuleBytes / Config.blockBytes
def granuleOffset (g : Nat) : Nat := g * Config.granuleBytes % Config.blockBytes

/-- The memory service's own acts on an uncorrectable granule (R147, items 2 to 4). The rule gives them no order: the
suspect mark comes first, so that a FREE block's BLOCK_RETIRED (R41) is logged before UNCORRECTABLE (DESIGN CHOICE, log
entry 21). -/
def badGranule (s : State) (g : Nat) : State :=
  logFault .memory .uncorrectable (granuleOffset g + 2 ^ 32 * granuleBlock g)
    (countMemory (fun c => { c with uncorrectable := sat c.uncorrectable 1 }) (suspectMark (granuleBlock g) s))

/-- The memory service's own acts on a completed read burst (R146, R147), the uncorrectable granules in ascending order
(DESIGN CHOICE, log entry 21: the rule names no order). -/
def readEffects (r : ReadResult) (s : State) : State :=
  r.bad.foldl badGranule (countMemory (fun c => { c with corrected := sat c.corrected r.corrected }) s)

/-- A burst lies in capture memory (R140). -/
def inCapture (addr len : Nat) : Bool := decide (addr + len ≤ Config.memoryBytes)

/-! ## The arbiter (R142, R143) -/

/-- Port p's window-read queue. -/
def MemService.windowAsk (m : MemService) : Port → List WindowBurst
  | .p0 => m.windowAsk0
  | .p1 => m.windowAsk1

/-- Replace port p's window-read queue. -/
def MemService.setWindowAsk (m : MemService) (p : Port) (q : List WindowBurst) : MemService :=
  match p with
  | .p0 => { m with windowAsk0 := q }
  | .p1 => { m with windowAsk1 := q }

/-- The grant of a refresh: the debt falls by one (R144). -/
def MemService.grantRefresh (m : MemService) (present : Bool) : Option MemService :=
  if present then some { m with busy := some .refresh, debt := m.debt - 1 } else none

/-- The grant of the writer's burst. -/
def MemService.grantWriter (m : MemService) (present : Bool) : Option MemService :=
  match m.writerAsk with
  | some b => if present then some { m with busy := some (.writer b), writerAsk := none } else none
  | none => none

/-- The grant of the archive engine's burst. -/
def MemService.grantArchive (m : MemService) : Option MemService :=
  match m.archiveAsk with
  | some b => some { m with busy := some (.archive b false), archiveAsk := none }
  | none => none

/-- The grant of port p's oldest window-read burst: the pointer then names the other port (R143). -/
def MemService.grantWindowOf (m : MemService) (p : Port) : Option MemService :=
  match m.windowAsk p with
  | [] => none
  | b :: rest => some { m.setWindowAsk p rest with busy := some (.window b), pointer := p.other }

/-- The grant of a window read: the pointer's port first (R143). -/
def MemService.grantWindow (m : MemService) : Option MemService :=
  (m.grantWindowOf m.pointer).or (m.grantWindowOf m.pointer.other)

/-- The grant of the highest level present (R142), with the intake's urgency signal. -/
def MemService.grant (m : MemService) (urgent : Bool) : Option MemService :=
  (m.grantRefresh (decide (Config.debtMax ≤ m.debt))).or
    ((m.grantWriter urgent).or
      ((m.grantRefresh (decide (1 ≤ m.debt))).or
        (match m.order with
         | .normal => (m.grantWriter true).or (m.grantArchive.or m.grantWindow)
         | .viewFirst => m.grantWindow.or ((m.grantWriter true).or m.grantArchive))))

/-- The arbiter makes a grant when nothing is in progress and calibration has succeeded (R142, R149, R150). -/
def arbitrate (s : State) : State :=
  if s.mem.busy.isNone && s.mem.cal = .ready then
    { s with mem := (s.mem.grant s.intake.urgent).getD s.mem }
  else s

/-- The writer has become IDLE by a STOP: its burst asked is withdrawn, and one granted completes for its bytes alone
(R160; log entry 15). -/
def MemService.dropWriter (m : MemService) : MemService :=
  { m with
    writerAsk := none
    busy := match m.busy with
      | some (.writer b) => some (.stray b)
      | g => g }

/-- A burst of the archive engine has been granted and has not completed (R142). -/
def MemService.archiveGranted (m : MemService) : Bool :=
  match m.busy with
  | some (.archive _ _) => true
  | _ => false

/-- A write burst that a STOP has cut off from the writer has been granted and has not completed (R141, R160). -/
def MemService.strayGranted (m : MemService) : Bool :=
  match m.busy with
  | some (.stray _) => true
  | _ => false

/-- The grant in progress has completed. -/
def releaseGrant (s : State) : State := { s with mem := { s.mem with busy := none } }

/-! ## Refresh (R144, R145) -/

/-- A refresh comes due. -/
def refreshComesDue (s : State) : State :=
  if s.mem.cal = .ready then
    let s1 := { s with mem := { s.mem with debt := min (s.mem.debt + 1) Config.debtMax, refreshPhase := 0 } }
    if Config.debtMax ≤ s.mem.debt + 1 then
      logFault .memory .refreshOverdue 0
        (countMemory (fun c => { c with refreshOverdue := sat c.refreshOverdue 1 }) s1)
    else s1
  else s

/-- CALIBRATION_SUCCESS (R149). -/
def execCalibrationSuccess (s : State) : Host.Outcome State Fault Refusal :=
  .next
    (if s.mem.cal = .calibrating then
      arbitrate
        { s with
          mem := { s.mem with cal := .ready, debt := 0, refreshPhase := 0, cells := [], flipped := [], late := [] } }
    else s)

/-- CALIBRATION_FAILURE (R150). -/
def execCalibrationFailure (s : State) : Host.Outcome State Fault Refusal :=
  .next
    (if s.mem.cal = .calibrating then
      logFault .memory .calibration 0 { s with mem := { s.mem with cal := .failed } }
    else s)

/-- REFRESH_DUE (R144, R145). -/
def execRefreshDue (s : State) : Host.Outcome State Fault Refusal := .next (arbitrate (refreshComesDue s))

/-- REFRESH_DONE (R144). -/
def execRefreshDone (s : State) : Host.Outcome State Fault Refusal :=
  .next (if s.mem.busy = some .refresh then arbitrate (releaseGrant s) else s)

end Sys2Proof.Machine
end

