-- ==== Sys2Proof/Machine/Drain.lean ====
section
/-! DEFINITION. The end of a session: the drain check, STOPPED and DRAIN_DONE (R162, R163), and the intake buffer's fill,
urgency and drops (R130, R134, R136, R137), which every block that ends a session uses. -/

namespace Sys2Proof.Machine

/-! ## The drain check -/

/-- Is the entry pending archive work (R162)? -/
def Entry.pendingWork (e : Entry) : Bool :=
  e.archReq &&
    match e.body with
    | .data _ => e.state = .sealed || e.state = .lost
    | .gap _ => e.state = .sealed

/-- Work is pending for the engine at or above the cursor (R162). -/
def State.workPending (s : State) : Bool :=
  s.catalog.entries.any (fun e => decide (s.engine.cursor ≤ e.number) && e.pendingWork)

/-- The session enters STOPPED (R162, R164): stop taken is cleared, the aligner takes the condition of R111, and a
DRAIN_DONE is due to the drain set. A trigger still pending is counted as ignored (log entry 36). -/
def enterStopped (flags : DrainFlags) (s : State) : State :=
  { s with
    session := { s.session with state := .stopped, stopTaken := false, drainDue := some flags }
    aligner := Aligner.rest s.aligner.params }

/-- The payload of DRAIN_DONE (R191). -/
def drainPayload (flags : DrainFlags) (s : State) : List Field :=
  [⟨0, 4, s.catalog.session.toNat⟩, ⟨4, 1, bit flags.unbound 0 + bit flags.aborted 1⟩, ⟨8, 4, s.engine.cursor⟩,
   ⟨16, 8, s.session.totals.received⟩, ⟨24, 8, s.session.totals.missing⟩, ⟨32, 8, s.session.totals.written⟩,
   ⟨40, 8, s.session.totals.dropped⟩, ⟨48, 8, s.session.totals.passedOver⟩]

/-- The DRAIN_DONE that is due goes to every port of the drain set, which is then emptied (R163). -/
def sendDrainDone (s : State) : State :=
  match s.session.drainDue with
  | none => s
  | some flags =>
    let pay := drainPayload flags s
    let s1 := if s.session.drain0 then notify .p0 .drainDone pay s else s
    let s2 := if s.session.drain1 then notify .p1 .drainDone pay s1 else s1
    { s2 with session := { s2.session with drain0 := false, drain1 := false, drainDue := none } }

/-- The drain check after the writer's IDLE report (R162). -/
def drainCheck (s : State) : State :=
  if s.engine.bound.isSome && s.workPending then
    { s with session := { s.session with state := .draining, stopTaken := false } }
  else enterStopped { unbound := false, aborted := false } s

/-- The check again on each completion the engine signals, in DRAINING (R162). -/
def drainRecheck (s : State) : State :=
  if s.session.state = .draining && !s.workPending then enterStopped { unbound := false, aborted := false } s else s

/-- The engine tells the session unit that it is unbound (R87, R88, R162). -/
def engineUnbound (s : State) : State :=
  if s.session.state = .draining then enterStopped { unbound := true, aborted := false } s else s

/-! ## The intake buffer -/

/-- The frames of a run of items. -/
def frameCount : List Item → Nat
  | [] => 0
  | .frame _ _ :: is => frameCount is + 1
  | .cut _ :: is => frameCount is

/-- The cuts of a run of items. -/
def cutCount : List Item → Nat
  | [] => 0
  | .frame _ _ :: is => cutCount is
  | .cut _ :: is => cutCount is + 1

/-- The fill: the bytes its frames occupy (R130). -/
def Intake.fill (k : Intake) : Nat := frameCount k.items * k.frameSize

/-- The urgency signal examined at a change of fill (R134). -/
def Intake.examineUrgency (k : Intake) : Intake :=
  if k.urgent then { k with urgent := decide (k.loMark * Config.waterStep < k.fill) }
  else { k with urgent := decide (k.hiMark * Config.waterStep ≤ k.fill) }

/-- Replace the items of the buffer, and examine the urgency signal. -/
def setItems (items : List Item) (s : State) : State :=
  { s with intake := ({ s.intake with items := items }).examineUrgency }

/-- Frames dropped for STOP (R136). -/
def countStopDrops (n : Nat) (s : State) : State :=
  addTotals (fun t => { t with dropped := sat t.dropped n })
    (countIntake (fun c => { c with dropsStop := sat c.dropsStop n }) s)

/-- Frames dropped for ABORT (R137), reported to the session unit (R139) and not to a STARVED writer, whose episode drops
stand (DESIGN CHOICE, log entry 56: R99 adds each frame that the intake reports as dropped while the writer is STARVED, and
no rule says whether these are among them). -/
def countAbortDrops (n : Nat) (s : State) : State :=
  addTotals (fun t => { t with dropped := sat t.dropped n })
    (countIntake (fun c => { c with dropsAbort := sat c.dropsAbort n }) s)

/-- The intake becomes IDLE with an empty buffer and its urgency clear (R134, R136, R137). -/
def intakeIdle (s : State) : State :=
  { s with
    intake := { s.intake with state := .idle, items := [], urgent := false, inTransfer := .nothing } }

/-- Every item left in the buffer leaves it for STOP: frames dropped, cuts discarded (R136); the intake enters IDLE. -/
def intakeEnd (s : State) : State := intakeIdle (countStopDrops (frameCount s.intake.items) s)

end Sys2Proof.Machine
end

