-- ==== Sys2Proof/Machine/Archive.lean ====
section
/-! DEFINITION. The archive engine (04_the_archive_engine.md): binding, buffers, the production of archive frames, reports,
completions, rewind and FAULTED. -/

namespace Sys2Proof.Machine

/-! ## Record bytes (R61, R79) -/

/-- The capture address of byte `o` of a record, and how many bytes of the record's blocks follow it in its block. -/
def State.recordAddress (s : State) (d : DataFields) (o : Nat) : Option (Nat × Nat) :=
  let perBlock := framesPerBlock d.frameSize * d.frameSize
  let pos := d.startOffset * d.frameSize + o
  match (s.chainOf d.firstBlock)[pos / perBlock]? with
  | none => none
  | some b => some (b * Config.blockBytes + pos % perBlock, perBlock - pos % perBlock)

/-! ## Engine fields -/

/-- Change the engine. -/
def setEngine (f : Engine → Engine) (s : State) : State := { s with engine := f s.engine }

/-- The buffers-low threshold of the configuration record, 0 while the generation is 0 (R73). -/
def Session.buffersLow (n : Session) : Nat := (n.config.map (fun c => c.buffersLow)).getD 0

/-- The flush interval of the configuration record, 0 while the generation is 0 (R84). -/
def Session.flush (n : Session) : Nat := (n.config.map (fun c => c.flush)).getD 0

/-- Put a notice or an event on the bound port. -/
def onBound (f : Port → State → State) (s : State) : State :=
  match s.engine.bound with
  | none => s
  | some p => f p s

/-- The tests of R73 when a buffer has left a list of `before` buffers. -/
def bufferLeft (before : Nat) (s : State) : State :=
  let armed := s.engine.lowArmed || decide (s.session.buffersLow ≤ before)
  if s.engine.buffers.length < s.session.buffersLow && armed then
    onBound (fun p => notify p .buffersLow [⟨0, 1, s.engine.buffers.length⟩])
      (setEngine (fun g => { g with lowArmed := false }) s)
  else setEngine (fun g => { g with lowArmed := armed }) s

/-- The claim is dropped, and the block map and the catalog are told (R20, R35, R83, R86). -/
def dropClaim (s : State) : State :=
  match s.engine.claim with
  | none => s
  | some n =>
    let s1 := offerBlock (setEngine (fun g => { g with claim := none }) s)
    if s.catalog.head = n then offerEntry s1 else s1

/-! ## The cursor (R74, R75) -/

/-- Skipping from a number (R74). -/
def Catalog.skip (c : Catalog) (n : Nat) : Nat :=
  match c.entries.find? (fun e => decide (n ≤ e.number) && e.archReq && decide (e.state ≠ .retired)) with
  | some e => e.number
  | none => c.next

/-- The send position skips, and the cursor with it when nothing awaits its report (R69, R74; log entry 14). -/
def skipPositions (s : State) : State :=
  setEngine
    (fun g =>
      { g with
        cursor := if g.awaiting.isEmpty then s.catalog.skip g.sendPos else g.cursor
        sendPos := s.catalog.skip g.sendPos }) s

/-- Can the engine start this entry (R75)? -/
def State.startable (s : State) (e : Entry) : Bool :=
  match e.body, e.state with
  | .data _, .sealed => e.archReq && s.engine.claim.isNone
  | .data _, .lost => true
  | .gap _, .sealed => true
  | _, _ => false

/-- The entry at the send position. -/
def State.sendEntry (s : State) : Option Entry := s.catalog.find s.engine.sendPos

/-- The engine can start the entry at the send position. -/
def State.ready (s : State) : Bool := s.sendEntry.any s.startable

/-! ## Placing frames (R77, R81) -/

/-- The writes of a run of bytes placed at an offset of the current buffer (R81). An address past the last of 64 bits, for
which no rule states a value, is taken modulo 2^64 (DESIGN CHOICE, log entry 51). -/
def outWrites (b : Buffer) (entry used : Nat) (bytes : List Byte) : List (OutWrite × List Byte) :=
  (chunks (bytes.length + 1) used bytes).map
    (fun c =>
      ({ addr := b.addr + BitVec.ofNat 64 c.1, off := c.1, len := c.2.length, entry := entry }, c.2))

/-- Records touched after a frame of entry `n` (R69). -/
def touch (n : Nat) : Option (Nat × Nat) → Option (Nat × Nat)
  | none => some (n, n)
  | some (a, b) => some (min a n, max b n)

/-- The writes of a run of bytes of the entry at the send position are issued (R81). -/
def issueBytes (b : Buffer) (off : Nat) (bytes : List Byte) (s : State) : State :=
  let ws := outWrites b s.engine.sendPos off bytes
  onBound (fun p s => ws.foldl (fun s w => emit p (.archiveWrite w.1.addr w.2) s) s)
    (setEngine (fun g => { g with issued := g.issued ++ ws.map (fun w => w.1) }) s)

/-- A frame of `n` bytes of the entry at the send position takes its place in the current buffer (R69, R77). -/
def takePlace (n : Nat) (s : State) : State :=
  setEngine (fun g => { g with state := .sending, used := g.used + n, touched := touch g.sendPos g.touched }) s

/-- A whole frame is placed in the current buffer, and its writes are issued. -/
def placeFrame (b : Buffer) (bytes : List Byte) (s : State) : State :=
  issueBytes b s.engine.used bytes (takePlace bytes.length s)

/-- The fragment number and the stage after a frame has been placed. -/
def advanceStage (st : Stage) (s : State) : State :=
  setEngine
    (fun g => { g with progress := { g.progress with fragment := g.progress.fragment + 1, stage := st } }) s

/-- The last frame of the entry has been placed (R77): it awaits the report with its written flag (R81), and the send
position advances past it. -/
def finishEntry (s : State) : State :=
  setEngine
    (fun g =>
      { g with
        awaiting := g.awaiting ++ [(g.sendPos, g.progress.written)]
        sendPos := s.catalog.skip (g.sendPos + 1)
        progress := Progress.clear }) s

/-- The current buffer is closed (R81), FLUSHED or not. -/
def closeBuffer (flushed : Bool) (s : State) : State :=
  setEngine (fun g => { g with closed := some flushed, state := .sending, flush := none }) s

/-! ## Reports and completions (R82, R83) -/

/-- The flags of BUFFER_FILLED (R191). -/
def filledPayload (addr : Addr64) (used flags : Nat) (touched : Option (Nat × Nat)) : List Field :=
  [⟨0, 8, addr.toNat⟩, ⟨8, 4, used⟩, ⟨12, 1, flags⟩, ⟨16, 4, (touched.getD (0, 0)).1⟩,
   ⟨20, 4, (touched.getD (0, 0)).2⟩]

/-- The BUFFER_FILLED of the closed current buffer is written (R82). -/
def writeFilled (s : State) : State :=
  match s.engine.buffers with
  | [] => s
  | b :: _ =>
    onBound
      (fun p =>
        enqueue p
          (noticeSlot bufferFilledCode
            (filledPayload b.addr s.engine.used (bit (s.engine.closed = some true) 0) s.engine.touched) s)) s

/-- The completion of one awaiting entry (R83): the catalog's change, then the claim if it named the entry. -/
def completeAwaiting (s : State) (a : Nat × Bool) : State :=
  let s1 := completeEntry a.1 s
  if s1.engine.claim = some a.1 then dropClaim s1 else s1

/-- The cursor moves past the completed entries and skips (R83). -/
def advanceCursor (s : State) : State :=
  setEngine
    (fun g =>
      { g with
        cursor := match g.awaiting.getLast? with
          | none => g.cursor
          | some a => s.catalog.skip (a.1 + 1)
        awaiting := [] }) s

/-- What follows the writing of a BUFFER_FILLED (R82, R83): the buffer leaves the list, R73, the counts, the
completions; the engine goes on in SENDING. -/
def afterFilled (s : State) : State :=
  let flushed : Bool := s.engine.closed = some true
  let s1 :=
    bufferLeft s.engine.buffers.length
      (setEngine (fun g => { g with buffers := g.buffers.drop 1 }) s)
  let s2 :=
    countArchive
      (fun c =>
        { c with filled := sat c.filled 1, flushed := if flushed then sat c.flushed 1 else c.flushed }) s1
  let s3 := advanceCursor (s2.engine.awaiting.foldl completeAwaiting s2)
  drainRecheck
    (setEngine (fun g => { g with closed := none, used := 0, touched := none, state := .sending }) s3)

/-- The bound port's completion queue has a free slot. -/
def State.boundFree (s : State) : Bool := s.engine.bound.any (fun p => decide (0 < (s.port p).free))

/-! ## Production (R76 to R80) -/

/-- The runs of capture memory (address, length) in which `n` record bytes from record byte `o` lie (R79). A DATA payload
lies in at most two blocks: the first argument. -/
def State.recordRuns (s : State) (d : DataFields) : Nat → Nat → Nat → List (Nat × Nat)
  | 0, _, _ => []
  | blocks + 1, o, n =>
    match s.recordAddress d o with
    | none => []
    | some (addr, room) =>
      (addr, min n room) :: if room < n then s.recordRuns d blocks (o + room) (n - room) else []

/-- What bursts would return of runs of capture memory (R146) once a write burst in progress has completed, and whether an
uncorrectable granule is among it. -/
def State.payloadAhead (s : State) (runs : List (Nat × Nat)) : List Byte × Bool :=
  let reads := runs.map (fun r => s.mem.afterWrite.readBurst r.1 r.2)
  (reads.flatMap (fun r => r.data), reads.any (fun r => !r.bad.isEmpty))

/-- The next burst of a DATA frame is asked (R79): up to 512 bytes within one block and one frame. -/
def askArchiveBurst (d : DataFields) (f : DataFrame) (s : State) : State :=
  match s.mem.archiveAsk, s.mem.busy with
  | some _, _ => s
  | none, some (.archive _ _) => s
  | none, _ =>
    match s.recordAddress d (s.engine.progress.offset + f.sent) with
    | none => s
    | some (addr, room) =>
      { s with
        mem :=
          { s.mem with
            archiveAsk :=
              some { addr := addr, len := min (f.len - f.sent) (min Config.burstBytes room) } } }

/-- The header of a frame of the transfer (R76, R193). -/
def State.frameHeader (s : State) (e : Entry) (kind : FrameKind) (damaged : Bool) (length : Nat) (crc : BitVec 32) :
    List Byte :=
  archiveHeader kind damaged s.engine.progress.resumed (e.data?.any (fun d => d.truncated)) s.catalog.epoch
    e.number s.engine.progress.fragment s.engine.progress.offset length crc

/-- The bytes of a frame of the transfer: its header, then its payload (R193). -/
def State.frameBytes (s : State) (e : Entry) (kind : FrameKind) (damaged : Bool) (payload : List Byte) : List Byte :=
  s.frameHeader e kind damaged payload.length (crc32 payload) ++ payload

/-- Replace the DATA frame in production. -/
def setFrame (f : Option DataFrame) (s : State) : State :=
  setEngine (fun g => { g with progress := { g.progress with frame := f } }) s

/-- A DATA frame of `n` payload bytes is placed (R77), and its header issued, as R81 orders the writes of a buffer: with
the DAMAGED flag and the payload CRC-32 of what capture memory holds at this moment (DESIGN CHOICE, log entry 9). -/
def placeData (b : Buffer) (e : Entry) (d : DataFields) (n : Nat) (s : State) : State :=
  let runs := s.recordRuns d 2 s.engine.progress.offset n
  let ahead := s.payloadAhead runs
  let f : DataFrame := { off := s.engine.used, len := n, runs := runs, sent := 0, got := [] }
  issueBytes b f.off (s.frameHeader e .data ahead.2 n (crc32 ahead.1)) (setFrame (some f) (takePlace (32 + n) s))

/-- The bytes of a burst are issued as writes (R79, R81), before the next burst is asked (R141). -/
def issueData (b : Buffer) (f : DataFrame) (s : State) : State :=
  issueBytes b (f.off + 32 + f.sent) f.got
    (setEngine
      (fun g =>
        { g with
          progress :=
            { g.progress with
              crc := crcRun g.progress.crc f.got
              frame := some { f with sent := f.sent + f.got.length, got := [] } } }) s)

/-- Every payload byte of a DATA frame has been issued. -/
def finishData (d : DataFields) (f : DataFrame) (s : State) : State :=
  let off := s.engine.progress.offset + f.len
  advanceStage (if d.bytes ≤ off then .endFrame else .data)
    (setEngine (fun g => { g with progress := { g.progress with offset := off, frame := none } }) s)

/-- The next frame of the started entry: placed when it fits, else the buffer is closed (R76, R77). The flag says
whether the engine can go on at once. -/
def produceFrame (b : Buffer) (e : Entry) (s : State) : State × Bool :=
  let left := b.size - s.engine.used
  let whole (bytes : List Byte) (after : State → State) : State × Bool :=
    if bytes.length ≤ left then (after (placeFrame b bytes s), true) else (closeBuffer false s, true)
  match s.engine.progress.stage, e.body with
  | .header, .data d =>
    whole (s.frameBytes e .header false e.descriptor) (advanceStage (if d.bytes = 0 then .endFrame else .data))
  | .data, .data d =>
    let rest := d.bytes - s.engine.progress.offset
    if 32 + min rest 256 ≤ left then (placeData b e d (min rest (min Config.dataPayloadMax (left - 32))) s, true)
    else (closeBuffer false s, true)
  | .endFrame, .data _ =>
    whole
      (s.frameBytes e .endFrame (!s.engine.progress.damaged.isEmpty)
        (endPayload s.engine.progress.offset (crcFinal s.engine.progress.crc) s.engine.progress.damaged.length))
      finishEntry
  | .whole, .data _ =>
    whole (s.frameBytes e .loss false e.descriptor)
      (fun s => finishEntry (countArchive (fun c => { c with lossFrames := sat c.lossFrames 1 }) s))
  | .whole, .gap g =>
    whole (s.frameBytes e .gap false (gapPayload g e.session))
      (fun s => finishEntry (countArchive (fun c => { c with gapFrames := sat c.gapFrames 1 }) s))
  | _, _ => (s, false)

/-- The engine's next act on the entry it has started. A burst of a DATA frame is asked only when the bytes of the previous
one have been issued (R141). -/
def produce (s : State) : State × Bool :=
  match s.sendEntry with
  | none => (s, false)
  | some e =>
    match s.engine.buffers with
    | [] => (setEngine (fun g => { g with state := .waitBuffer }) s, false)
    | b :: _ =>
      match s.engine.progress.frame, e.body with
      | some f, .data d =>
        if !f.got.isEmpty then (issueData b f s, true)
        else if f.sent < f.len then (askArchiveBurst d f s, false)
        else (finishData d f s, true)
      | _, _ => produceFrame b e s

/-- The engine enters IDLE (R75); with a partly filled buffer the flush timer starts, and an interval of 0 closes the
buffer (R84). -/
def enterIdle (s : State) : State × Bool :=
  if s.engine.state = .idle then (s, false)
  else if s.engine.buffers.isEmpty || s.engine.used = 0 then
    (setEngine (fun g => { g with state := .idle }) s, false)
  else if s.session.flush = 0 then (closeBuffer true s, true)
  else
    (setEngine (fun g => { g with state := .idle, flush := some { remaining := s.session.flush, ticks := 0 } }) s,
      false)

/-- The engine examines the send position (R75, R78). -/
def examine (s0 : State) : State × Bool :=
  let s := skipPositions s0
  match s.sendEntry with
  | none => enterIdle s
  | some e =>
    if s.startable e then (s, false)
    else if e.isData && e.state = .sealed && e.archReq &&
        s.engine.awaiting.any (fun a => decide (s.engine.claim = some a.1)) then
      (closeBuffer false s, true)
    else enterIdle s

/-- One act of the engine, and whether another follows at once. A full buffer is closed when the bytes of its last frame
have been issued (log entry 13). -/
def engineStep (s : State) : State × Bool :=
  if s.engine.bound.isNone || s.engine.ending.isSome || s.engine.state = .unbound || s.engine.state = .faulted then
    (s, false)
  else if s.engine.closed.isSome then
    if !s.engine.issued.isEmpty then (s, false)
    else if s.boundFree then (afterFilled (writeFilled s), true)
    else (setEngine (fun g => { g with state := .waitSlot }) s, false)
  else if s.engine.progress.frame.isNone && s.engine.buffers.head?.any (fun b => decide (b.size ≤ s.engine.used)) then
    (closeBuffer false s, true)
  else if s.engine.progress.started then produce s
  else if s.engine.state = .waitBuffer then (s, false)
  else examine s

/-- The engine's acts until it waits. Between two waits it reports one buffer, examines the catalog, issues one burst, and
places at most a HEADER, a DATA frame and an END. -/
def engineLoop : Nat → State → State
  | 0, s => s
  | fuel + 1, s =>
    match engineStep s with
    | (s1, true) => engineLoop fuel s1
    | (s1, false) => s1

/-- The engine runs on the events of R75. -/
def runEngine (s : State) : State := engineLoop 16 s

/-- The engine runs, a DRAIN_DONE it led to is sent (R162), and the arbiter sees what it asked. -/
def engineEvent (s : State) : State := arbitrate (sendDrainDone (runEngine s))

/-- The engine starts the entry at the send position (R75). -/
def startEntry (e : Entry) (s : State) : State :=
  setEngine
    (fun g =>
      { g with
        state := .sending
        flush := none
        claim := if e.isData && e.state = .sealed then some e.number else g.claim
        progress :=
          { Progress.clear with
            started := true
            crc := crcInitial
            stage := if e.isData && e.state = .sealed then .header else .whole
            resumed := e.data?.any (fun d => d.resumedArchive) } }) s

/-! ## Rewind (R86) -/

/-- Withdraw the archive burst asked, and discard the data of one granted (R141). -/
def withdrawArchive (m : MemService) : MemService :=
  { m with
    archiveAsk := none
    busy := match m.busy with
      | some (.archive b _) => some (.archive b true)
      | g => g }

/-- The entries started and not completed, with their written flags (R86). -/
def Engine.unfinished (g : Engine) : List (Nat × Bool) :=
  g.awaiting ++ if g.progress.started then [(g.sendPos, g.progress.written)] else []

/-- A failed write not yet logged is logged and counted (R89), before the rewind: also where an unbinding or a reset meets
its wait; a port reset has then emptied the bound port's queue, in which the FAULT_LOGGED stands (DESIGN CHOICE, log entry
12). -/
def logFailedWrite (s : State) : State :=
  match s.engine.failed with
  | none => s
  | some w =>
    countArchive (fun c => { c with linkErrors := sat c.linkErrors 1 })
      (logFault .archive .linkWriteError w.addr.toNat (setEngine (fun g => { g with failed := none }) s))

/-- The entries started and not completed go back (R86); a rewind is counted unless it is made for a part reset (R90). -/
def rewindEntries (counted : Bool) (s : State) : State :=
  let todo := s.engine.unfinished
  let s1 := todo.foldl (fun s a => if a.2 then resumeEntry a.1 s else s) (dropClaim s)
  let s2 :=
    if counted && !todo.isEmpty then countArchive (fun c => { c with rewinds := sat c.rewinds 1 }) s1 else s1
  { s2 with
    mem := withdrawArchive s2.mem
    engine :=
      { s2.engine with
        sendPos := s2.engine.cursor, progress := Progress.clear, awaiting := [], flush := none, closed := none } }

/-- A rewind (R86). A failed write that waits to be logged is logged first (R89). -/
def rewind (counted : Bool) (s : State) : State := rewindEntries counted (logFailedWrite s)

/-- The binding becomes none (R87, R88): the buffers are abandoned and the session unit is told. -/
def unbind (s : State) : State :=
  engineUnbound
    (setEngine
      (fun g =>
        { g with
          bound := none, state := .unbound, buffers := [], used := 0, touched := none, issued := [], failed := none
          errorNotice := none, ending := none, closed := none, flush := none }) s)

/-- The end of an UNBIND_ARCHIVE once every issued write is answered (R87). -/
def finishUnbind (r : Passed) (s : State) : State :=
  let abandoned := s.engine.buffers.length
  answer r .ok 0 [⟨0, 1, abandoned⟩] (sendDrainDone (unbind (rewind true s)))

/-! ## A link write error (R89) -/

/-- The BUFFER_FILLED of a failed write is written with ABORTED and LINK_ERROR (R89). -/
def writeErrorFilled (n : ErrorNotice) (s : State) : State :=
  onBound
    (fun p =>
      enqueue p (noticeSlot bufferFilledCode (filledPayload n.addr n.used 6 (some (n.first, n.last))) s)) s

/-- What follows its writing: the buffer leaves the list and R73 is applied. It is not counted as filled: R82 counts at the
notice's writing, R89 names no count (DESIGN CHOICE, log entry 45). -/
def afterErrorFilled (s : State) : State :=
  bufferLeft s.engine.buffers.length
    (setEngine
      (fun g => { g with buffers := g.buffers.drop 1, used := 0, touched := none, errorNotice := none }) s)

/-- The engine enters FAULTED for a failed write (R89): it places and reads nothing more, its flush timer stops, and it
waits for the responses to the writes already issued. R89 does not say what stands in the engine meanwhile (DESIGN CHOICE,
log entry 12). -/
def faultEngine (w : OutWrite) (s : State) : State :=
  setEngine (fun g => { g with state := .faulted, flush := none, failed := some { addr := w.addr, used := w.off } })
    { s with mem := withdrawArchive s.mem }

/-- The notice of the buffer whose write failed (R89). -/
def Engine.faultNotice (g : Engine) (used : Nat) : ErrorNotice :=
  let touched := g.touched.getD (0, 0)
  { addr := (g.buffers.head?.map (fun b => b.addr)).getD 0, used := used, first := touched.1, last := touched.2 }

/-- The report of R89 once the wait is over: the failure logged and counted, the rewind, then the BUFFER_FILLED, which
waits when no slot is free. -/
def reportFailure (w : FailedWrite) (s : State) : State :=
  let n := s.engine.faultNotice w.used
  let s1 := rewind true s
  if s1.boundFree then afterErrorFilled (writeErrorFilled n s1)
  else setEngine (fun g => { g with errorNotice := some n }) s1

/-- The wait of a FAULTED engine ends when no issued write is unanswered (R89). -/
def endFaultWait (s : State) : State :=
  match s.engine.failed, s.engine.issued with
  | some w, [] => engineEvent (reportFailure w s)
  | _, _ => s

/-! ## Commands -/

/-- ENTRY_START (R75): the engine starts the entry at its send position (log entry 14 for the states in which it
may). -/
def execEntryStart (s : State) : Host.Outcome State Fault Refusal :=
  .next
    (if (s.engine.state = .idle || s.engine.state = .sending) && s.engine.bound.isSome &&
        s.engine.ending.isNone && s.engine.closed.isNone && !s.engine.progress.started then
      let s1 := skipPositions s
      match s1.sendEntry with
      | none => s
      | some e => if s1.startable e then engineEvent (startEntry e s1) else s
    else s)

/-- The distinct damaged granules of the transfer, with the new ones counted (R80). -/
def noteDamage (s : State) (g : Nat) : State :=
  let s1 := damageEntry s.engine.sendPos s.catalog.epoch s
  if s.engine.progress.damaged.contains g then s1
  else
    countArchive (fun c => { c with damagedSent := sat c.damagedSent 1 })
      (setEngine
        (fun k => { k with progress := { k.progress with damaged := k.progress.damaged ++ [g] } }) s1)

/-- The bytes of a burst join the DATA frame in production (R79, R80). -/
def takeArchiveData (r : ReadResult) (s : State) : State :=
  match s.engine.progress.frame with
  | none => s
  | some f =>
    r.bad.foldl noteDamage
      (setEngine
        (fun g =>
          { g with
            progress :=
              { g.progress with frame := some { f with got := f.got ++ r.data } } }) s)

/-- The written flag of the entry a write carried (R81). -/
def noteWritten (n : Nat) (g : Engine) : Engine :=
  if g.progress.started && g.sendPos = n then { g with progress := { g.progress with written := true } }
  else { g with awaiting := g.awaiting.map (fun a => if a.1 = n then (a.1, true) else a) }

/-- The n-th issued write has been answered. -/
def answerWrite (n : Nat) (s : State) : State := setEngine (fun g => { g with issued := g.issued.eraseIdx n }) s

/-- Every field of the engine returns to its power-on value (R90). -/
def engineReset (s : State) : State := { s with engine := Engine.reset }

/-- The UNBIND_ARCHIVE that an ending still has to answer. -/
def Ending.unbinding : Ending → Option Passed
  | .unbind r => some r
  | .partReset u => u

/-- An acknowledgement acted upon (R81). -/
def ackWrite (w : OutWrite) (s : State) : State :=
  engineEvent
    (setEngine (noteWritten w.entry)
      (countArchive (fun c => { c with bytesWritten := sat c.bytesWritten w.len }) s))

/-- FLUSH_TIMER_EXPIRY (R84). -/
def expireFlush (s : State) : State :=
  if s.engine.state = .idle && s.engine.flush.isSome && s.engine.ending.isNone then
    engineEvent (closeBuffer true s)
  else s

/-- FLUSH_TIMER_EXPIRY (R84). -/
def execFlushTimerExpiry (s : State) : Host.Outcome State Fault Refusal := .next (expireFlush s)

/-- BIND_ARCHIVE from a port (R71). -/
def bindArchive (r : Passed) (s : State) : State :=
  match s.engine.bound with
  | none =>
    let s1 :=
      setEngine
        (fun g =>
          { g with
            bound := some r.port, buffers := [], lowArmed := true
            cursor := s.catalog.skip g.cursor, sendPos := s.catalog.skip g.cursor }) s
    let s2 := setEngine (fun g => { g with state := if s1.ready then .waitBuffer else .idle }) s1
    answer r .ok 0 [⟨0, 4, s2.engine.cursor⟩] s2
  | some q =>
    if q = r.port then answer r .ok 0 [⟨0, 4, s.engine.cursor⟩] s else answer r .boundElsewhere 0 [] s

/-- UNBIND_ARCHIVE from a port (R87). One taken while a part reset waits is answered when that wait ends (R90, R170; log
entry 46). -/
def unbindArchive (r : Passed) (s : State) : State :=
  if s.engine.bound = some r.port then
    match s.engine.ending with
    | some (.partReset _) => setEngine (fun g => { g with ending := some (.partReset (some r)) }) s
    | _ =>
      if s.engine.issued.isEmpty then finishUnbind r s
      else setEngine (fun g => { g with ending := some (.unbind r), flush := none, errorNotice := none }) s
  else answer r .notBound 0 [] s

/-- The checks of SUPPLY_BUFFER (R72). -/
def supplyStatus (p : Port) (addr : Addr64) (size : Nat) (g : Engine) : Status :=
  if g.bound ≠ some p then .notBound
  else if g.state = .faulted then .faulted
  else if size < Config.bufferMin ∨ Config.bufferMax < size ∨ size % Config.bufferMin ≠ 0 ∨
      addr.toNat % Config.bufferMin ≠ 0 then .range
  else if Config.bufferListMax ≤ g.buffers.length then .listFull
  else .ok

/-- SUPPLY_BUFFER from a port (R72, R73, R85). -/
def supplyBuffer (r : Passed) (addr : Addr64) (size : Nat) (s : State) : State :=
  match supplyStatus r.port addr size s.engine with
  | .ok =>
    let n := s.engine.buffers.length + 1
    let s1 :=
      setEngine
        (fun g =>
          { g with
            buffers := g.buffers ++ [{ addr := addr, size := size }]
            lowArmed := g.lowArmed || decide (s.session.buffersLow ≤ n)
            state := if g.state = .waitBuffer then .sending else g.state }) s
    engineEvent (answer r .ok 0 [⟨0, 1, n⟩] s1)
  | st => answer r st 0 [] s

/-- BIND_ARCHIVE (R71). -/
def execBindArchive (p : Port) (s : State) : Host.Outcome State Fault Refusal :=
  .next
    (match takePassed p 0x10 s with
     | some (r, s1) => bindArchive r s1
     | none => s)

/-- UNBIND_ARCHIVE (R87). -/
def execUnbindArchive (p : Port) (s : State) : Host.Outcome State Fault Refusal :=
  .next
    (match takePassed p 0x11 s with
     | some (r, s1) => arbitrate (unbindArchive r s1)
     | none => s)

/-- SUPPLY_BUFFER (R72). -/
def execSupplyBuffer (p : Port) (s : State) : Host.Outcome State Fault Refusal :=
  .next
    (match takePassed p 0x12 s with
     | some (r, s1) =>
       match r.request with
       | .supplyBuffer addr size => supplyBuffer r addr size s1
       | _ => s1
     | none => s)

end Sys2Proof.Machine
end

