-- ==== Sys2Proof/Machine/Aligner.lean ====
section
/-! DEFINITION. The trigger aligner (06_trigger_alignment_and_marks.md): stamps, judging, marks, holdoff, and what the
writer's and the intake's reports make it do. -/

namespace Sys2Proof.Machine

/-- Change the aligner. -/
def setAligner (f : Aligner → Aligner) (s : State) : State := { s with aligner := f s.aligner }

/-- Change the writer. -/
def setWriter (f : Writer → Writer) (s : State) : State := { s with writer := f s.writer }

/-- Tell the writer of a change that holds from a frame (R95). -/
def tellWriter (frame : Nat) (c : WriterChange) (s : State) : State :=
  setWriter (fun w => { w with changes := w.changes ++ [(frame, c)] }) s

/-! ## Outcomes -/

/-- The outcome of a judging, as FORCE_TRIGGER reports it (R120, R190). -/
inductive TrigOutcome where
  | noSession
  | handed
  | mark
  | pending
  | early
  | stale
  | overrun
  | ignored
  | lostToDrop
  | late
deriving DecidableEq, Repr

/-- The value of an outcome (R190). -/
def TrigOutcome.code : TrigOutcome → Nat
  | .noSession => 0
  | .handed => 1
  | .mark => 2
  | .pending => 3
  | .early => 4
  | .stale => 5
  | .overrun => 6
  | .ignored => 7
  | .lostToDrop => 8
  | .late => 9

/-- The counter of an outcome (R109, R114); those not yet settled count nothing. -/
def TrigOutcome.count (n : Nat) : TrigOutcome → TriggerCounters → TriggerCounters
  | .early, c => { c with early := sat c.early n }
  | .stale, c => { c with stale := sat c.stale n }
  | .overrun, c => { c with overrun := sat c.overrun n }
  | .ignored, c => { c with ignored := sat c.ignored n }
  | .lostToDrop, c => { c with lostToDrop := sat c.lostToDrop n }
  | .late, c => { c with lateMarks := sat c.lateMarks n }
  | _, c => c

/-- `n` triggers are discarded with a count. -/
def countOutcome (o : TrigOutcome) (n : Nat) (s : State) : State := countTrigger (o.count n) s

/-- One trigger is discarded with a count. -/
def discardTrigger (o : TrigOutcome) (s : State) : TrigOutcome × State := (o, countOutcome o 1 s)

/-! ## Marks (R121) -/

/-- A mark request to the catalog, counted by its answer (R9, R121). -/
def sendMark (n : Nat) (s : State) (m : Mark) : State :=
  match requestMark n m s with
  | (.kept, s1) => countTrigger (fun c => { c with marksKept := sat c.marksKept 1 }) s1
  | (.overflowed, s1) => countTrigger (fun c => { c with marksOverflowed := sat c.marksOverflowed 1 }) s1
  | (.late, s1) => countOutcome .late 1 s1

/-- A report of progress (R121): the record, its first frame, and the frame after the newest written to it. -/
def deliverMarks (n first next : Nat) (s : State) : State :=
  let due (m : Mark) : Bool := decide (first ≤ m.frame) && decide (m.frame < next)
  (s.aligner.marks.filter due).foldl (sendMark n)
    (setAligner (fun a => { a with marks := a.marks.filter (fun m => !due m) }) s)

/-- Every queued mark leaves the queue undelivered, with a count. -/
def clearMarks (o : TrigOutcome) (s : State) : State :=
  countOutcome o s.aligner.marks.length (setAligner (fun a => { a with marks := [] }) s)

/-- The frame lies inside the capture record, up to the newest frame written (R121). -/
def State.insideCapture (s : State) (t : Nat) : Bool :=
  s.aligner.capture.any (fun c => decide (c.first ≤ t)) && s.writer.newestWritten.any (fun n => decide (t ≤ n))

/-- The writer has passed the frame (R121; log entry 35). -/
def State.writerPassed (s : State) (t : Nat) : Bool := s.writer.nextFrame.any (fun x => decide (t < x))

/-- A trigger made a mark (R121): overrun on a full queue; judged at once when its frame has been written and no
hand-over is present (log entry 35); else queued. -/
def makeMark (tr : Trigger) (s : State) : TrigOutcome × State :=
  let m : Mark := { frame := tr.frame, fine := tr.fine, source := tr.source }
  if Config.markQueueMax ≤ s.aligner.marks.length then discardTrigger .overrun s
  else if s.aligner.handOver.isNone && s.writerPassed tr.frame then
    match s.insideCapture tr.frame, s.aligner.capture with
    | true, some c => (.mark, sendMark c.number s m)
    | _, _ => discardTrigger .late s
  else (.mark, setAligner (fun a => { a with marks := a.marks ++ [m] }) s)

/-! ## Judging (R114, R115, R122) -/

/-- Frame `t` lies in the lost frames of a cut in the intake buffer (R133). -/
def State.inEpisode (s : State) (t : Nat) : Bool :=
  s.intake.items.any (fun i =>
    match i with
    | .cut c => decide (c.first ≤ t) && decide (t < c.first + c.count)
    | .frame _ _ => false)

/-- The source is mark-enabled. -/
def AlignerParams.markEnabled (p : AlignerParams) : TrigSource → Bool
  | .main => p.markMain
  | .aux => p.markAux

/-- Frame `t` lies within the last sealed record (R114). -/
def Aligner.inLastSealed (a : Aligner) (t : Nat) : Bool :=
  a.lastSealed.any (fun r => decide (r.1 ≤ t) && decide (t ≤ r.2))

/-- A trigger made pending (R115): overrun when one is pending already. -/
def makePending (tr : Trigger) (s : State) : TrigOutcome × State :=
  if s.aligner.pending.isSome then discardTrigger .overrun s
  else (.pending, setAligner (fun a => { a with pending := some tr }) s)

/-- The hand-over to the writer (R116). -/
def handTrigger (tr : Trigger) (s : State) : TrigOutcome × State :=
  (.handed,
    setWriter (fun w => { w with handed := some tr })
      (setAligner
        (fun a => { a with handOver := some { frame := tr.frame, last := tr.frame + a.params.post - 1 } }) s))

/-- A trigger in or after the range of the current or coming record (R114). -/
def judgeRange (tr : Trigger) (last : Nat) (s : State) : TrigOutcome × State :=
  if tr.frame ≤ last then
    if s.aligner.params.markEnabled tr.source then makeMark tr s else discardTrigger .ignored s
  else if tr.frame ≤ last + s.aligner.params.holdoff then discardTrigger .ignored s
  else makePending tr s

/-- The judging by the aligner's state (R114, test 3). -/
def judgeByState (tr : Trigger) (s : State) : TrigOutcome × State :=
  let a := s.aligner
  let lateMark : Bool := a.inLastSealed tr.frame && a.params.markEnabled tr.source
  match a.state with
  | .disarmed => if lateMark then discardTrigger .late s else discardTrigger .ignored s
  | .holdoff =>
    if lateMark then discardTrigger .late s
    else if tr.frame ≤ a.holdoffEnd.getD 0 then discardTrigger .ignored s
    else makePending tr s
  | .capturing =>
    match a.capture with
    | none => discardTrigger .ignored s
    | some c =>
      if tr.frame < c.first then
        if a.params.markEnabled tr.source then discardTrigger .late s else discardTrigger .ignored s
      else judgeRange tr (c.last.getD 0) s
  | .marking => discardTrigger .ignored s
  | st =>
    match a.handOver with
    | some h => if tr.frame < h.frame then discardTrigger .overrun s else judgeRange tr h.last s
    | none =>
      if tr.frame < a.armingFrame.getD 0 then discardTrigger .stale s
      else if st = .arming && a.params.early = .ignore then discardTrigger .early s
      else handTrigger tr s

/-- The judging of a stamped trigger in a SEGMENTED session (R114). -/
def judgeSegmented (tr : Trigger) (s : State) : TrigOutcome × State :=
  if s.inEpisode tr.frame then discardTrigger .lostToDrop s
  else if s.aligner.newest.any (fun n => decide (tr.frame ≤ n)) then judgeByState tr s
  else makePending tr s

/-- The judging of a stamped trigger in a CONTINUOUS session (R122; log entry 31 for an aligner DISARMED there). -/
def judgeContinuous (tr : Trigger) (s : State) : TrigOutcome × State :=
  let a := s.aligner
  let floor : Nat :=
    match a.capture with
    | some c => c.first
    | none => a.firstFrame.getD 0
  if s.inEpisode tr.frame then discardTrigger .lostToDrop s
  else if a.state ≠ .marking || !a.params.markEnabled tr.source then discardTrigger .ignored s
  else if tr.frame < floor then discardTrigger .late s
  else makeMark tr s

/-- The judging of a stamped trigger by the session's mode (R109). -/
def judge (tr : Trigger) (s : State) : TrigOutcome × State :=
  match s.aligner.params.mode with
  | .segmented => judgeSegmented tr s
  | .continuous => judgeContinuous tr s

/-- A RAW trigger is stamped (R110); stale when no frame can stamp it. -/
def judgeRaw (source : TrigSource) (fine : Byte) (latency : Nat) (s : State) : TrigOutcome × State :=
  match s.aligner.newest with
  | none => discardTrigger .stale s
  | some n =>
    if n < latency then discardTrigger .stale s
    else judge { frame := n - latency, fine := fine, source := source, stamp := .raw } s

/-- A trigger message is stamped and judged (R109, R110). -/
def judgeMessage (m : TrigMessage) (s : State) : TrigOutcome × State :=
  match m with
  | .aligned source frame fine => judge { frame := frame.toNat, fine := fine, source := source, stamp := .aligned } s
  | .raw source fine => judgeRaw source fine s.aligner.params.rawLatency s

/-- The pending trigger is judged again, by R114 from test 1 (R115). -/
def rejudge (s : State) : State :=
  match s.aligner.pending with
  | none => setAligner (fun a => { a with rejudge := false }) s
  | some tr =>
    (judgeSegmented tr (setAligner (fun a => { a with pending := none, rejudge := false }) s)).2

/-- The pending trigger is cleared and counted as ignored (R115). -/
def clearPending (s : State) : State :=
  match s.aligner.pending with
  | none => s
  | some _ => countOutcome .ignored 1 (setAligner (fun a => { a with pending := none }) s)

/-! ## Arming, holdoff, disarming -/

/-- ARMING passes to ARMED (R113). -/
def checkArmed (s : State) : State :=
  match s.aligner.state, s.aligner.newest, s.aligner.armingFrame with
  | .arming, some n, some a =>
    if a + s.aligner.params.pre ≤ n then
      setAligner (fun k => { k with state := .armed, rejudge := true }) s
    else s
  | _, _, _ => s

/-- The aligner enters ARMING with an arming frame (R113). -/
def enterArming (frame : Option Nat) (s : State) : State :=
  checkArmed (setAligner (fun a => { a with state := .arming, armingFrame := frame, rejudge := true }) s)

/-- The aligner enters DISARMED; it has no arming frame and no holdoff there (log entry 26). -/
def enterDisarmed (s : State) : State :=
  setAligner
    (fun a =>
      { a with
        state := .disarmed, armingFrame := none, holdoffEnd := none, holdoffCount := 0, disarmAfterSeal := false
        rejudge := true }) s

/-- The frame from which a change told now holds: the frame after the newest received, or the session's first frame
(R118, R119; 0 stands for a first frame not yet known). -/
def Aligner.nextReceived (a : Aligner) : Nat :=
  match a.newest with
  | some n => n + 1
  | none => a.firstFrame.getD 0

/-- The holdoff count, and the leaving of HOLDOFF once it is 0 (R117). -/
def checkHoldoff (s : State) : State :=
  match s.aligner.state, s.aligner.holdoffEnd with
  | .holdoff, some e =>
    let left := match s.aligner.newest with
      | some n => e - n
      | none => e
    if left = 0 then
      match s.aligner.params.rearm with
      | .auto =>
        enterArming (some (e + 1))
          (tellWriter (e + 1) .toPretrigger
            (setAligner (fun a => { a with holdoffEnd := none, holdoffCount := 0 }) s))
      | .single => tellWriter (e + 1) .toPassing (enterDisarmed s)
    else setAligner (fun a => { a with holdoffCount := left }) s
  | _, _ => s

/-! ## The writer's reports -/

/-- A segmented record has opened (R116). -/
def alignerOpened (n first last next : Nat) (s : State) : State :=
  deliverMarks n first next
    (countTrigger (fun c => { c with accepted := sat c.accepted 1 })
      (setAligner
        (fun a =>
          { a with
            state := .capturing, handOver := none
            capture := some { number := n, first := first, last := some last } }) s))

/-- A continuous record has opened (R122). -/
def alignerOpenedContinuous (n first : Nat) (s : State) : State :=
  setAligner (fun a => { a with capture := some { number := n, first := first, last := none } }) s

/-- The writer has refused the hand-over with TOO_OLD (R116). -/
def alignerTooOld (s : State) : State :=
  clearMarks .ignored
    (countOutcome .stale 1 (setAligner (fun a => { a with handOver := none, rejudge := true }) s))

/-- The capture record has been sealed complete at frame `last` (R117). -/
def alignerSealed (last : Nat) (s : State) : State :=
  let a := s.aligner
  let s1 :=
    tellWriter (last + 1) .toPassing
      (setAligner
        (fun a => { a with lastSealed := a.capture.map (fun c => (c.first, last)), capture := none }) s)
  if a.disarmAfterSeal then enterDisarmed s1
  else
    checkHoldoff
      (setAligner
        (fun a =>
          { a with
            state := .holdoff, armingFrame := none, holdoffEnd := some (last + a.params.holdoff) }) s1)

/-- The first frame of a new provisional chain has been written (R95, R113; log entry 41). -/
def alignerChainStart (frame : Nat) (s : State) : State :=
  if s.aligner.state = .arming || s.aligner.state = .armed then
    setAligner (fun a => { a with armingFrame := a.armingFrame.map (fun x => max x frame) }) s
  else s

/-- The hand-over and the writer's handed trigger are cleared and counted. -/
def clearHandOver (o : TrigOutcome) (s : State) : State :=
  match s.aligner.handOver with
  | none => s
  | some _ =>
    countOutcome o 1
      (setAligner (fun a => { a with handOver := none }) (setWriter (fun w => { w with handed := none }) s))

/-- The fallback of a segmented aligner at a cut whose first frame after it is `next` (R123). -/
def fallBack (next : Nat) (s : State) : State :=
  match s.aligner.state with
  | .disarmed => s
  | .holdoff => s
  | .marking => s
  | _ =>
    if s.aligner.disarmAfterSeal then enterDisarmed (setAligner (fun a => { a with capture := none }) s)
    else enterArming (some next) (setAligner (fun a => { a with capture := none }) s)

/-- The writer has told the aligner of a cut: its lost frames are `first` to `next - 1` (R123). -/
def alignerCut (first next : Nat) (s : State) : State :=
  let lost (m : Mark) : Bool := decide (first ≤ m.frame) && decide (m.frame < next)
  let finishing : Bool := s.session.state = .finishing
  let gone := (s.aligner.marks.filter lost).length
  let s1 :=
    countOutcome .lostToDrop gone
      (setAligner (fun a => { a with marks := a.marks.filter (fun m => !lost m) }) s)
  match s.aligner.params.mode with
  | .continuous => s1
  | .segmented =>
    let keep : Bool := s.aligner.handOver.any (fun h => decide (next ≤ h.frame)) && !finishing
    let o : TrigOutcome :=
      if s.aligner.handOver.any (fun h => decide (next ≤ h.frame)) then .ignored else .lostToDrop
    let s2 := if keep then s1 else clearMarks .ignored (clearHandOver o s1)
    setAligner (fun a => { a with rejudge := true }) (fallBack next s2)

/-! ## The intake's reports -/

/-- The session's first frame is fixed (R112). -/
def alignerFirstFrame (frame : Nat) (s : State) : State :=
  setAligner
    (fun a =>
      { a with
        firstFrame := some frame
        armingFrame :=
          if a.state = .arming || a.state = .armed then a.armingFrame.or (some frame) else a.armingFrame }) s

/-- A frame group has been taken: the newest received frame index (R110, R113, R115, R117). -/
def alignerGroup (newest : Nat) (s : State) : State :=
  let reaches (tr : Trigger) : Bool :=
    decide (tr.frame ≤ newest) && s.aligner.newest.all (fun n => decide (n < tr.frame))
  let again : Bool := s.aligner.rejudge || s.aligner.pending.any reaches
  checkHoldoff (checkArmed (setAligner (fun a => { a with newest := some newest, rejudge := again }) s))

/-- A range has been declared missing (R115, R132): `first` to `next - 1`. -/
def alignerMissing (first next : Nat) (s : State) : State :=
  if s.aligner.pending.any (fun tr => decide (first ≤ tr.frame) && decide (tr.frame < next)) then
    setAligner (fun a => { a with rejudge := true }) s
  else s

end Sys2Proof.Machine
end

