-- ==== Sys2Proof/Machine/Writer.lean ====
section
/-! DEFINITION. The record writer (05_the_record_writer.md): blocks and starvation, segmented records, continuous spans,
cuts, and the end of its stop work. -/

namespace Sys2Proof.Machine

/-! ## Starvation (R99, R100) -/

/-- The value of a starved cause (R191). -/
def StarvedCause.code : StarvedCause → Nat
  | .blocks => 1
  | .catalog => 2

/-- The writer is doing the stop work of a STOP that found no segmented record to complete (R107). -/
def State.stopWork (s : State) : Bool := s.writer.stopping && s.session.state = .running

/-- The writer enters STARVED (R99). WRITER_STARVED stands before the FAULT_LOGGED of the CATALOG_STALL (DESIGN CHOICE, log
entry 21: R172 lets either come first). -/
def enterStarved (cause : StarvedCause) (w : WaitRequest) (s : State) : State :=
  let (newest, s1) := indexOrFree s.writer.newestWritten s
  let s2 :=
    setWriter
      (fun k =>
        { k with
          state := .starved, resume := k.state, waiting := some w, cause := some cause, episodeDrops := 0
          offered := false }) s1
  let s3 :=
    notifyBoth .writerStarved [⟨0, 1, cause.code⟩, ⟨4, 4, s.writer.openRec.getD 0⟩, ⟨8, 8, newest⟩] s2
  match cause with
  | .blocks => s3
  | .catalog => logFault .writer .catalogStall s3.catalog.tail s3

/-- The writer leaves STARVED for its resume state, with WRITER_RESUMED (R100). -/
def leaveStarved (s : State) : State :=
  if s.writer.state = .starved then
    notifyBoth .writerResumed
      [⟨0, 1, (s.writer.cause.map StarvedCause.code).getD 0⟩, ⟨8, 8, s.writer.episodeDrops⟩]
      (setWriter (fun k => { k with state := k.resume, waiting := none, cause := none, offered := false }) s)
  else s

/-! ## Chains -/

/-- The writer's chain ends with no block. -/
def Writer.noChain (w : Writer) : Writer :=
  { w with chainFirst := none, chainLast := none, chainBlocks := 0, lastFill := 0, provOldest := none }

/-- The provisional chain is released as a discard (R33). -/
def discardChain (s : State) : State :=
  if s.writer.openRec.isNone && s.writer.chainFirst.isSome then
    setWriter Writer.noChain (releaseBlocks (s.chainOf s.writer.chainFirst) s)
  else s

/-- The first block of the provisional chain can be trimmed (R97). -/
def State.trimmable (s : State) : Bool :=
  let w := s.writer
  w.openRec.isNone && decide (2 ≤ w.chainBlocks) &&
    (match w.provOldest, w.newestWritten with
     | some o, some n => decide (o + w.params.framesPerBlock - 1 + w.params.pre < n)
     | _, _ => false)

/-- One trim (R33, R97). -/
def trimOne (s : State) : State :=
  match s.writer.chainFirst with
  | none => s
  | some b =>
    let after := (s.blocks.get b).next
    setWriter
      (fun w =>
        { w with
          chainFirst := after, chainBlocks := w.chainBlocks - 1
          provOldest := w.provOldest.map (fun o => o + w.params.framesPerBlock) }) (releaseBlock s b)

/-- Trims until the check fails (R97). -/
def trimLoop : Nat → State → State
  | 0, s => s
  | fuel + 1, s => if s.trimmable then trimLoop fuel (trimOne s) else s

/-- The trimming of the provisional chain (R97). -/
def trimChain (s : State) : State := trimLoop s.writer.chainBlocks s

/-- A served take-block request (R96). -/
def gotBlock (b : Nat) (s : State) : State :=
  setWriter
    (fun w =>
      { w with
        chainFirst := w.chainFirst.or (some b), chainLast := some b, chainBlocks := w.chainBlocks + 1
        lastFill := 0
        provOldest := if w.openRec.isNone then w.provOldest.or w.nextFrame else w.provOldest }) s

/-- The writer's take-block request (R96), asked once more after STILL_FILLING; the flag says whether it was served. -/
def requestBlock (isRepeat : Bool) (s : State) : Bool × State :=
  match takeBlock s.writer.openRec s.writer.chainLast isRepeat s with
  | (.served b, s1) => (true, gotBlock b s1)
  | (.noBlock, s1) => (false, s1)
  | (.stillFilling, s1) =>
    let s2 := setWriter (fun w => { w with lastFill := w.params.framesPerBlock }) s1
    match takeBlock s2.writer.openRec s2.writer.chainLast isRepeat s2 with
    | (.served b, s3) => (true, gotBlock b s3)
    | (_, s3) => (false, s3)

/-! ## The end of a session's writing (R106, R107) -/

/-- The OPEN record, if any, is sealed as truncating (R14, R32). -/
def sealTruncating (s : State) : State :=
  match s.writer.openRec with
  | none => s
  | some _ =>
    setWriter (fun w => { w.noChain with openRec := none, recLast := none })
      (storeBlock s.writer.chainLast
        (sealEntry s.writer.written s.writer.chainBlocks s.writer.chainFirst true s))

/-- Replace the memory service. -/
def setMem (f : MemService → MemService) (s : State) : State := { s with mem := f s.mem }

/-- The stop work is done (R107, R124, R136): the writer's bursts are dropped, the OPEN record is sealed as truncating, the
provisional chain released, queued marks and a hand-over counted, the items left in the buffer dropped; the writer reports
IDLE and the drain check is made (R161, R162). Where no record was OPEN, that the hand-over is counted ignored and the marks
queued for its coming record late is the model's (DESIGN CHOICE, log entry 16). R107 names stopping as cleared and no other
item: the writer's items but its session parameters stand as at power-on, as R108 leaves them (DESIGN CHOICE, log entry
55). -/
def finishStop (s : State) : State :=
  let s1 := clearMarks .late (clearHandOver .ignored (discardChain (sealTruncating (setMem MemService.dropWriter s))))
  let s2 := clearPending (rejudge (enterDisarmed (setAligner (fun a => { a with capture := none }) s1)))
  drainCheck (setWriter (fun w => Writer.idle w.params) (intakeEnd s2))

/-! ## Segmented records (R98, R101, R102) -/

/-- A segmented record is sealed complete at its last frame (R102); in FINISHING the session ends (R161). -/
def sealComplete (last : Nat) (s : State) : State :=
  let s1 :=
    alignerSealed last
      (setWriter (fun w => { w.noChain with openRec := none, recLast := none, state := .passing })
        (storeBlock s.writer.chainLast
          (sealEntry s.writer.written s.writer.chainBlocks s.writer.chainFirst false s)))
  if s.session.state = .finishing then finishStop s1 else s1

/-- The record's last frame has been written (R102). -/
def State.recordDone (s : State) : Option Nat :=
  match s.writer.recLast, s.writer.nextFrame with
  | some l, some x => if s.writer.openRec.isSome && decide (l < x) then some l else none
  | _, _ => none

/-- How many blocks at the front of the provisional chain hold only frames older than `f` (R101; log entry 20). -/
def releaseCount (perBlock : Nat) : Nat → Nat → Nat → Nat
  | 0, _, _ => 0
  | blocks + 1, oldest, f => if oldest + perBlock - 1 < f then releaseCount perBlock blocks (oldest + perBlock) f + 1 else 0

/-- The opening of a segmented record (R101), computed from the handed trigger, the next frame index and the provisional
chain. -/
structure Opening where
  first : Nat
  last : Nat
  frames : Nat
  released : List Nat
  kept : List Nat
  startOffset : Nat
  short : Bool
deriving DecidableEq, Repr

/-- Steps 1 and 2 of R101. -/
def State.opening (s : State) (tr : Trigger) (next : Nat) : Opening :=
  let w := s.writer
  let oldest := w.provOldest.getD tr.frame
  let f := max (tr.frame - w.params.pre) oldest
  let chain := s.chainOf w.chainFirst
  let n := releaseCount w.params.framesPerBlock chain.length oldest f
  { first := f, last := tr.frame + w.params.post - 1, frames := next - f
    released := chain.take n, kept := chain.drop n
    startOffset := if (chain.drop n).isEmpty then 0 else f - (oldest + n * w.params.framesPerBlock)
    short := decide (tr.frame < oldest + w.params.pre) }

/-- The DATA fields of an opening segmented record (R101, step 3). -/
def Opening.fields (o : Opening) (tr : Trigger) (p : WriterParams) : DataFields :=
  { mode := .segmented, retention := p.retention, layout := p.layout, frameSize := p.frameSize
    first := o.first, frames := o.frames, firstBlock := o.kept.head?, blockCount := o.kept.length
    startOffset := o.startOffset
    trigger :=
      some { frame := tr.frame, fine := tr.fine, source := tr.source, stamp := tr.stamp, captured := tr.frame - o.first }
    marks := [], markOverflow := 0, shortPretrigger := o.short, truncated := false, afterGap := false
    damaged := false, resumedArchive := false }

/-- Step 4 of R101: the catalog has accepted record `n`. -/
def adoptOpening (n : Nat) (o : Opening) (next : Nat) (s : State) : State :=
  alignerOpened n o.first o.last next
    (setWriter
      (fun w =>
        { w with
          state := .recording, openRec := some n, recFirst := o.first, recLast := some o.last
          written := o.frames, chainFirst := o.kept.head?, chainBlocks := o.kept.length
          chainLast := if o.kept.isEmpty then none else w.chainLast
          lastFill := if o.kept.isEmpty then 0 else w.lastFill
          provOldest := none, handed := none })
      (adoptBlocks n o.kept (releaseBlocks o.released s)))

/-- The writer applies the handed trigger and opens a record (R101). A repeat leaves STARVED when it is accepted (R100): its
WRITER_RESUMED stands before the FAULT_LOGGED of a suspect block of the release set (DESIGN CHOICE, log entry 21). -/
def openSegmented (isRepeat : Bool) (tr : Trigger) (next : Nat) (s : State) : State :=
  let o := s.opening tr next
  match askEntry .opened s.writer.params.archReq (.data (o.fields tr s.writer.params)) isRepeat s with
  | (.accepted n, s1) =>
    let s2 := adoptOpening n o next (leaveStarved s1)
    match s2.recordDone with
    | some l => sealComplete l s2
    | none =>
      if o.kept.isEmpty then
        match requestBlock false s2 with
        | (true, s3) => s3
        | (false, s3) => enterStarved .blocks .takeBlock s3
      else s2
  | (.refused, s1) => if isRepeat then s1 else enterStarved .catalog .openSegmented s1
  | (.openExists, s1) => s1

/-- The handed trigger is refused with TOO_OLD (R98); in FINISHING the session ends (log entry 17). -/
def refuseTooOld (s : State) : State :=
  let s1 := alignerTooOld (setWriter (fun w => { w with handed := none }) s)
  if s.session.state = .finishing then finishStop s1 else s1

/-- The writer burst asked or granted and not completed (R141). -/
def MemService.writerBurst (m : MemService) : Option WriterBurst :=
  match m.writerAsk, m.busy with
  | some b, _ => some b
  | none, some (.writer b) => some b
  | none, _ => none

/-- The handed trigger can be applied now (R98; log entry 19): its frame is not later than the next frame, and a burst
in progress stays within its record. -/
def State.applicable (s : State) (tr : Trigger) (next : Nat) : Bool :=
  s.writer.state = .pretrigger && decide (tr.frame ≤ next) &&
    s.mem.writerBurst.all (fun b => decide (next + b.count ≤ tr.frame + s.writer.params.post))

/-- The handed trigger is too old (R98). -/
def State.tooOld (s : State) (tr : Trigger) (next : Nat) : Bool :=
  match s.writer.provOldest with
  | none => decide (tr.frame < next)
  | some o => decide (tr.frame < o) || decide (tr.frame + s.writer.params.post < next)

/-! ## The aligner's changes (R95) -/

/-- One change, in PASSING or PRETRIGGER. -/
def applyChange (s : State) (c : WriterChange) : State :=
  match c with
  | .toPassing => setWriter (fun w => { w with state := .passing }) (discardChain s)
  | .toPretrigger => setWriter (fun w => { w with state := .pretrigger }) s

/-- The changes that hold from frame `next` or before it are applied, in the order told, when no burst is in progress
(R95). -/
def applyChanges (next : Nat) (s : State) : State :=
  if (s.writer.state = .passing || s.writer.state = .pretrigger) && s.mem.writerBurst.isNone then
    let due := s.writer.changes.filter (fun c => decide (c.1 ≤ next))
    (due.map (fun c => c.2)).foldl applyChange
      (setWriter (fun w => { w with changes := w.changes.filter (fun c => decide (next < c.1)) }) s)
  else s

/-- What the aligner and the writer settle between them: the pending trigger judged again, then the handed trigger
applied or refused; the flag says whether anything was settled. -/
def settleOnce (s0 : State) : State × Bool :=
  if s0.aligner.rejudge then (rejudge s0, true)
  else
    match s0.writer.nextFrame with
    | none => (s0, false)
    | some next =>
      let s := applyChanges next s0
      match s.writer.handed with
      | none => (s, false)
      | some tr =>
        if s.applicable tr next then
          if s.tooOld tr next then (refuseTooOld s, true) else (openSegmented false tr next s, true)
        else (s, false)

/-- Settling, until nothing is left to settle. A step has at most one trigger pending and one handed, and each
settlement can set the flag of R115 once more. -/
def settleLoop : Nat → State → State
  | 0, s => s
  | fuel + 1, s =>
    match settleOnce s with
    | (s1, true) => settleLoop fuel s1
    | (s1, false) => s1

/-- The aligner and the writer settle. -/
def settle (s : State) : State := settleLoop 8 s

/-- The end of every step that moves the writer or the aligner: they settle, the engine examines the catalog (R75), a
DRAIN_DONE goes out (R163), and the arbiter grants (R142). -/
def captureEvent (s : State) : State := engineEvent (settle s)

/-! ## Bursts (R94) -/

/-- The frames at the oldest end of the buffer before its first cut. -/
def leadingFrames : List Item → List (List Byte)
  | .frame _ bytes :: is => bytes :: leadingFrames is
  | _ => []

/-- The most frames the next burst may carry (R94; log entry 19 for a provisional burst). -/
def State.burstLimit (s : State) (next : Nat) : Nat :=
  let w := s.writer
  let room := min (Config.burstBytes / w.params.frameSize) (w.params.framesPerBlock - w.lastFill)
  let last : Option Nat := w.recLast.or (w.handed.map (fun tr => tr.frame + w.params.post - 1))
  let byRecord := match last with
    | some l => if next ≤ l then min room (l + 1 - next) else room
    | none => room
  w.changes.foldl (fun n c => if next < c.1 then min n (c.1 - next) else n) byRecord

/-- The writer asks its next burst (R94, R141). -/
def askBurst (next : Nat) (s : State) : State :=
  match s.writer.chainLast with
  | none => s
  | some b =>
    let frames := (leadingFrames s.intake.items).take (s.burstLimit next)
    { s with
      mem :=
        { s.mem with
          writerAsk :=
            some
              { block := b, addr := b * Config.blockBytes + s.writer.lastFill * s.writer.params.frameSize
                count := frames.length, bytes := frames.flatten } } }

/-- The writer's chain needs a block for the next frame (R96). -/
def Writer.needsBlock (w : Writer) : Bool := w.chainLast.isNone || decide (w.params.framesPerBlock ≤ w.lastFill)

/-- A refused request: STARVED, or in the stop work of R107 its end. -/
def starveOrStop (cause : StarvedCause) (w : WaitRequest) (s : State) : State :=
  if s.stopWork then finishStop s else enterStarved cause w s

/-- The writer writes: a block if the chain needs one, then a burst. -/
def writeFrames (next : Nat) (s0 : State) : State :=
  let s := trimChain s0
  if s.writer.needsBlock then
    match requestBlock false s with
    | (true, s1) => askBurst next s1
    | (false, s1) => starveOrStop .blocks .takeBlock s1
  else askBurst next s

/-! ## Continuous records (R103) -/

/-- The DATA fields of an opening continuous record (R103). -/
def continuousFields (first : Nat) (afterGap : Bool) (p : WriterParams) : DataFields :=
  { mode := .continuous, retention := p.retention, layout := p.layout, frameSize := p.frameSize
    first := first, frames := 0, firstBlock := none, blockCount := 0, startOffset := 0, trigger := none
    marks := [], markOverflow := 0, shortPretrigger := false, truncated := false, afterGap := afterGap
    damaged := false, resumedArchive := false }

/-- The opening of a continuous record at frame `first`, and its first block (R103, R105). The flag says whether the
writer can go on writing. -/
def openContinuous (isRepeat : Bool) (first : Nat) (afterGap : Bool) (s : State) : Bool × State :=
  match askEntry .opened s.writer.params.archReq (.data (continuousFields first afterGap s.writer.params)) isRepeat s with
  | (.accepted n, s1) =>
    let s2 :=
      alignerOpenedContinuous n first
        (setWriter
          (fun w =>
            { w with openRec := some n, recFirst := first, recLast := none, written := 0, gapFollowUp := false })
          (leaveStarved s1))
    match requestBlock false s2 with
    | (true, s3) => (true, s3)
    | (false, s3) => (false, starveOrStop .blocks .takeBlock s3)
  | (.refused, s1) =>
    (false, if isRepeat then s1 else starveOrStop .catalog (.openContinuous first afterGap) s1)
  | (.openExists, s1) => (false, s1)

/-- The last of span-length blocks is full (R103). -/
def State.spanFull (s : State) : Bool :=
  s.writer.params.mode = .continuous && s.writer.openRec.isSome &&
    decide (s.writer.params.span ≤ s.writer.chainBlocks) &&
    decide (s.writer.params.framesPerBlock ≤ s.writer.lastFill)

/-- The seal of a full span (R103). -/
def sealSpan (s : State) : State :=
  setWriter (fun w => { w.noChain with openRec := none })
    (storeBlock s.writer.chainLast
      (sealEntry s.writer.written s.writer.chainBlocks s.writer.chainFirst false s))

/-! ## Cuts (R104, R105, R107) -/

/-- The first frame after a cut (R130). -/
def Cut.after (c : Cut) : Nat := c.first + c.count

/-- Steps 1 and 2 of R105, and the aligner told (R123). A writer that was recording a segmented record takes the first
frame after the cut in the state the aligner gives for it; in PASSING it stays PASSING (log entry 18). -/
def tellCut (c : Cut) (s : State) : State :=
  let s1 := alignerCut c.first c.after (discardChain (sealTruncating s))
  let armed : Bool := s1.aligner.state = .arming || s1.aligner.state = .armed
  setWriter
    (fun w =>
      { w with
        cutTold := true
        state :=
          if w.state = .recording && w.params.mode = .segmented then (if armed then .pretrigger else .passing)
          else w.state }) s1

/-- Step 4 of R105. -/
def openAfterGap (next : Nat) (s : State) : State := (openContinuous false next true s).2

/-- The catalog has accepted the GAP entry (R105, step 3): the cut leaves the buffer, and in a continuous session step 4
follows. -/
def gapAccepted (c : Cut) (s : State) : State :=
  let s1 :=
    setWriter
      (fun w =>
        { w with
          nextFrame := some c.after, cutTold := false
          gapFollowUp := w.gapFollowUp || decide (w.params.mode = .continuous) })
      (setItems (s.intake.items.drop 1) s)
  if s1.writer.gapFollowUp then openAfterGap c.after s1 else s1

/-- Step 3 of R105. -/
def appendGap (isRepeat : Bool) (c : Cut) (s : State) : State :=
  let st : EntryState := if s.writer.params.archReq then .sealed else .retired
  match askEntry st s.writer.params.archReq (.gap { first := c.first, count := c.count, cause := c.cause }) isRepeat s with
  | (.accepted _, s1) => gapAccepted c (leaveStarved s1)
  | (_, s1) => if isRepeat then s1 else enterStarved .catalog (.appendGap c) s1

/-- The writer processes a closed cut (R105). -/
def processCut (c : Cut) (s : State) : State :=
  appendGap false c (if s.writer.cutTold then s else tellCut c s)

/-- A cut in FINISHING (R107, R123): the aligner is told, the cut is discarded, and the session ends. -/
def finishAtCut (c : Cut) (s : State) : State :=
  finishStop (alignerCut c.first c.after (discardChain (sealTruncating s)))

/-- The writer has reached a cut (R104, R106, R107). -/
def reachCut (c : Cut) (s : State) : State :=
  if s.session.state = .finishing then finishAtCut c s
  else if s.stopWork then finishStop s
  else if c.closed then processCut c s
  else setWriter (fun w => { w with state := .atCut, resume := w.state }) s

/-- The intake has closed a cut: a writer AT_CUT there leaves AT_CUT and processes it (R104). -/
def cutClosed (s : State) : State :=
  if s.writer.state = .atCut then
    match s.intake.items with
    | .cut c :: _ =>
      if c.closed then processCut c (setWriter (fun w => { w with state := w.resume }) s) else s
    | _ => s
  else s

/-! ## Taking items (R94) -/

/-- The oldest frame is passed over (R94). -/
def passOver (idx : Nat) (s : State) : State :=
  setWriter (fun w => { w with nextFrame := some (idx + 1) })
    (addTotals (fun t => { t with passedOver := sat t.passedOver 1 }) (setItems (s.intake.items.drop 1) s))

/-- The writer takes a frame in RECORDING (R94, R103). -/
def recordFrame (idx : Nat) (s : State) : State :=
  if s.writer.params.mode = .continuous && s.writer.openRec.isNone then
    match openContinuous false idx s.writer.gapFollowUp s with
    | (true, s1) => askBurst idx s1
    | (false, s1) => s1
  else writeFrames idx s

/-- The writer takes the oldest item (R94, R104). -/
def takeItem (s0 : State) : State :=
  match s0.intake.items with
  | [] => if s0.stopWork then finishStop s0 else s0
  | .cut c :: _ => reachCut c s0
  | .frame idx _ :: _ =>
    let s := applyChanges idx (setWriter (fun w => { w with nextFrame := some idx }) s0)
    match s.writer.state with
    | .passing => passOver idx s
    | .pretrigger => writeFrames idx s
    | .recording => recordFrame idx s
    | _ => s

/-- The oldest item is a frame that the writer would write (R94, R95). -/
def State.writesNext (s : State) : Bool :=
  match s.intake.items with
  | .frame idx _ :: _ =>
    let t := applyChanges idx (setWriter (fun w => { w with nextFrame := some idx }) s)
    t.writer.state = .pretrigger || t.writer.state = .recording
  | _ => false

/-- The writer can take an item: it is at work, no burst of its own is in progress, and while one that a STOP has cut off
is, the item asks for no other (R94, R141; DESIGN CHOICE, log entry 15). -/
def State.writerReady (s : State) : Bool :=
  (s.writer.state = .passing || s.writer.state = .pretrigger || s.writer.state = .recording) &&
    s.mem.writerBurst.isNone && !(s.mem.strayGranted && s.writesNext)

/-- WRITER_TAKE_ITEM (R94). -/
def execWriterTakeItem (s : State) : Host.Outcome State Fault Refusal :=
  .next (if s.writerReady then captureEvent (takeItem s) else s)

/-! ## Offers (R20, R35, R99, R100) -/

/-- The writer repeats its waiting request. -/
def repeatRequest (s : State) : State :=
  match s.writer.waiting with
  | none => s
  | some .takeBlock =>
    match requestBlock true s with
    | (true, s1) => leaveStarved s1
    | (false, s1) => s1
  | some (.openContinuous first afterGap) => (openContinuous true first afterGap s).2
  | some .openSegmented =>
    match s.writer.handed, s.writer.nextFrame with
    | some tr, some next => openSegmented true tr next s
    | _, _ => s
  | some (.appendGap c) => appendGap true c s

/-- WAITING_REQUEST_OFFER (R35, R20). -/
def execWaitingRequestOffer (s : State) : Host.Outcome State Fault Refusal :=
  .next
    (if s.writer.state = .starved && s.writer.offered then
      captureEvent (repeatRequest (setWriter (fun w => { w with offered := false }) s))
    else s)

/-! ## Completion of a burst (R94) -/

/-- The frames of a burst leave the buffer, and the writer's counts advance (R94). -/
def burstCounts (b : WriterBurst) (s : State) : State :=
  addTotals (fun t => { t with written := sat t.written b.count })
    (setWriter
      (fun w =>
        { w with
          lastFill := w.lastFill + b.count, nextFrame := w.nextFrame.map (fun x => x + b.count)
          newestWritten := (w.nextFrame.map (fun x => x + b.count - 1)).or w.newestWritten
          written := if w.openRec.isSome then w.written + b.count else w.written })
      (setItems (s.intake.items.drop b.count) s))

/-- The growth report (R7, R30, R32): the block map and the catalog, the aligner's marks (R121); for the provisional
chain, its start (R95) and its trimming (R97), which a STARVED writer does not do (R99: its chain is unchanged while it
waits). -/
def growthReport (b : WriterBurst) (s : State) : State :=
  let w := s.writer
  let s1 := growBlock b.block w.lastFill w.params.framesPerBlock s
  match w.openRec with
  | some n =>
    deliverMarks n w.recFirst (w.nextFrame.getD 0) (growEntry n w.written w.chainBlocks w.chainFirst s1)
  | none =>
    let began : Bool := decide (w.provOldest.map (fun o => o + b.count) = w.nextFrame)
    let s2 := if began then alignerChainStart (w.provOldest.getD 0) s1 else s1
    if w.state = .starved then s2 else trimChain s2

/-- The end of an ABORT's wait for the granted burst (R108, R164): the record is sealed as truncating, the provisional
chain released, what the aligner has taken meanwhile counted as ignored, the writer IDLE; the session STOPPED with
DRAIN_DONE, then the ABORT's completion. -/
def finishAbort (s : State) : State :=
  let s1 :=
    clearMarks .ignored (clearHandOver .ignored (clearPending (intakeIdle (discardChain (sealTruncating s)))))
  let s2 :=
    sendDrainDone
      (enterStopped { unbound := false, aborted := true } (setWriter (fun w => Writer.idle w.params) s1))
  match s2.session.inProgress with
  | some (.abort r) => answer r .ok 0 [] { s2 with session := { s2.session with inProgress := none } }
  | _ => s2

/-- What the writer does once a burst has completed: the end of an ABORT (R108), a seal (R102, R103), or the end of
continuous stop work (R107). -/
def afterBurst (s : State) : State :=
  if s.writer.aborting then finishAbort s
  else
    let s1 :=
      match s.recordDone with
      | some l => sealComplete l s
      | none => if s.spanFull then sealSpan s else s
    if s1.stopWork && (leadingFrames s1.intake.items).isEmpty then finishStop s1 else s1

/-- The next burst is asked when the previous one has completed and the buffer holds a frame to write (R141), before the
arbiter's next grant. -/
def askNext (s : State) : State := if s.writerReady && s.writesNext then settle (takeItem s) else s

/-- A write burst of the writer has completed (R94). The growth report, with its trimming (R97), comes before a kept
trigger that the burst has reached is applied (R98), so the trimming may take frames that the trigger would have kept and
set SHORT_PRETRIGGER (DESIGN CHOICE, log entry 19). -/
def writerBurstDone (b : WriterBurst) (s : State) : State :=
  engineEvent (askNext (settle (afterBurst (growthReport b (burstCounts b s)))))

/-- The bytes of a completed write burst are in capture memory (R148). -/
def storeBurst (b : WriterBurst) (strikes : List Strike) (s : State) : State :=
  setMem (fun m => m.writeBurst b.addr b.bytes) (releaseGrant (strikeAll strikes s))

/-- A write burst whose frames a STOP has dropped has completed: its bytes are all it leaves (DESIGN CHOICE, log entry
15). A burst that the writer waited to ask is asked before the arbiter's next grant, as after a burst of its own (R141). -/
def strayBurstDone (s : State) : State :=
  if s.writerReady && s.writesNext then captureEvent (takeItem s) else arbitrate s

/-- WRITER_BURST_DONE (R94, R148). -/
def execWriterBurstDone (strikes : List Strike) (s : State) : Host.Outcome State Fault Refusal :=
  match s.mem.busy with
  | some (.writer b) =>
    if inCapture b.addr b.bytes.length then .next (writerBurstDone b (storeBurst b strikes s))
    else .fault .outsideCaptureMemory
  | some (.stray b) =>
    if inCapture b.addr b.bytes.length then .next (strayBurstDone (storeBurst b strikes s))
    else .fault .outsideCaptureMemory
  | _ => .next s

end Sys2Proof.Machine
end

