-- ==== Sys2Proof/Machine/Intake.lean ====
section
/-! DEFINITION. The intake unit (07_sample_intake.md): the digitizer link, slots, the intake buffer and drop episodes; and
the trigger link's messages (R109). -/

namespace Sys2Proof.Machine

/-- Change the intake. -/
def setIntake (f : Intake → Intake) (s : State) : State := { s with intake := f s.intake }

/-! ## Slots (R129) -/

/-- A difference saturated to 16 bits. -/
def saturate (d : Int) : Int := max (-32768) (min 32767 d)

/-- A sample of a frame. -/
def sampleOf (samples : Vector Sample 8) (n : Nat) : Sample := samples.toList.getD n 0

/-- The difference of pair k. -/
def pairDifference (samples : Vector Sample 8) (k : Nat) : Int :=
  ((sampleOf samples (2 * k)).toNat : Int) - ((sampleOf samples (2 * k + 1)).toNat : Int)

/-- The stored value of a slot (R129). -/
def slotValue (samples : Vector Sample 8) (d : SlotDesc) : BitVec 16 :=
  match d.source, d.coding with
  | .channel n, .unsigned => sampleOf samples n.val
  | .channel n, .signed => sampleOf samples n.val - 0x8000
  | .pair k, .signed => BitVec.ofInt 16 (saturate (pairDifference samples k.val))
  | .pair k, .unsigned => BitVec.ofInt 16 (saturate (pairDifference samples k.val) + 32768)

/-- A formed frame: its slots laid end to end in setup order, the less significant byte first (R128). -/
def formFrame (setup : List SlotDesc) (samples : Vector Sample 8) : List Byte :=
  setup.flatMap (fun d => leBytes 2 (slotValue samples d).toNat)

/-! ## Drops and cuts (R131, R132) -/

/-- The OPEN cut, which stands at the newest end of the buffer. -/
def Intake.openCut (k : Intake) : Option Cut :=
  match k.items.getLast? with
  | some (.cut c) => if c.closed then none else some c
  | _ => none

/-- Replace the item at the newest end. -/
def Intake.setLast (k : Intake) (i : Item) : Intake := { k with items := k.items.dropLast ++ [i] }

/-- Put an item at the newest end. -/
def Intake.join (k : Intake) (i : Item) : Intake := { k with items := k.items ++ [i] }

/-- The buffer has room for one more frame and holds fewer than 16 cuts (R131). -/
def Intake.hasRoom (k : Intake) : Bool :=
  decide ((frameCount k.items + 1) * k.frameSize ≤ Config.intakeBytes) &&
    decide (cutCount k.items < Config.cutsMax)

/-- The cause of a cut placed by a dropped frame, taken from the writer (R131). -/
def Writer.dropCause (w : Writer) : CutCause :=
  match w.state, w.cause with
  | .starved, some .blocks => .starvedBlocks
  | .starved, some .catalog => .starvedCatalog
  | _, _ => .intakeFull

/-- `n` lost frames from `first` on join the OPEN cut, or place one of cause `cause` and begin an episode. -/
def loseFrames (first n : Nat) (cause : CutCause) (s : State) : State :=
  match s.intake.openCut with
  | some c => setIntake (fun k => k.setLast (.cut { c with count := c.count + n })) s
  | none =>
    countIntake (fun c => { c with episodes := sat c.episodes 1 })
      (setIntake (fun k => k.join (.cut { first := first, count := n, cause := cause, closed := false })) s)

/-- Lost frames are reported to the session unit as dropped, and to the writer, which adds them to its episode drops
while STARVED (R99, R131, R132). -/
def reportDrops (n : Nat) (s : State) : State :=
  addTotals (fun t => { t with dropped := sat t.dropped n })
    (if s.writer.state = .starved then setWriter (fun w => { w with episodeDrops := w.episodeDrops + n }) s else s)

/-- One formed frame is accepted or dropped (R131). -/
def judgeFrame (s : State) (f : Nat × List Byte) : State :=
  if s.intake.hasRoom then
    setIntake
      (fun k =>
        (match k.openCut with
         | some c => k.setLast (.cut { c with closed := true })
         | none => k).join (.frame f.1 f.2)) s
  else
    reportDrops 1
      (countIntake (fun c => { c with dropsFull := sat c.dropsFull 1 })
        (loseFrames f.1 1 s.writer.dropCause s))

/-- The frames from `from` to `next - 1` are declared missing (R132). -/
def declareMissing (start next : Nat) (s : State) : State :=
  let n := next - start
  alignerMissing start next
    (reportDrops n
      (addTotals (fun t => { t with missing := sat t.missing n })
        (countIntake (fun c => { c with dropsIndex := sat c.dropsIndex n }) (loseFrames start n .linkIndex s))))

/-! ## Groups (R127, R135) -/

/-- The session's first frame is fixed: the intake tells the writer and the aligner (R93, R112, R135). -/
def fixFirstFrame (frame : Nat) (s : State) : State :=
  match s.intake.firstFrame with
  | some _ => s
  | none =>
    alignerFirstFrame frame
      (setWriter (fun w => { w with nextFrame := some frame })
        (setIntake (fun k => { k with firstFrame := some frame }) s))

/-- The frames of a group with their indices (log entry 43 past the last index), without the first `skip` (R125, R135). -/
def groupFrames (setup : List SlotDesc) (first skip : Nat) (frames : Vector (Vector Sample 8) 32) :
    List (Nat × List Byte) :=
  (((natsFrom first 32).map Config.frameIndex).zip (frames.toList.map (formFrame setup))).drop skip

/-- The frames of a group are taken (R127), those of the session without the first `skip`. -/
def takeFrames (first skip : Nat) (frames : Vector (Vector Sample 8) 32) (s : State) : State :=
  let last := Config.frameIndex (first + 31)
  let s1 := fixFirstFrame (Config.frameIndex (first + skip)) s
  let s2 :=
    addTotals (fun t => { t with received := sat t.received (32 - skip) })
      (countIntake (fun c => { c with groupsTaken := sat c.groupsTaken 1 }) s1)
  let s3 := (groupFrames s.intake.setup first skip frames).foldl judgeFrame s2
  let s4 :=
    setIntake
      (fun k =>
        ({ k with
          expected := some (Config.frameIndex (first + 32)), newest := some last
          inTransfer := .nothing }).examineUrgency) s3
  alignerGroup last { s4 with faults := { s4.faults with newest := last } }

/-- A group taken while ACCEPTING, against the expected index (R127). -/
def takeGroup (first : Nat) (frames : Vector (Vector Sample 8) 32) (s : State) : State :=
  match s.intake.inTransfer with
  | .discardGroup => setIntake (fun k => { k with inTransfer := .nothing }) s
  | .partialGroup n => takeFrames first n frames s
  | .nothing =>
    match s.intake.expected with
    | none => takeFrames first 0 frames s
    | some e =>
      if first < e then
        logFault .intake .malformedGroup first
          (countIntake (fun c => { c with groupsMalformed := sat c.groupsMalformed 1 }) s)
      else if first = e then takeFrames first 0 frames s
      else takeFrames first 0 frames (declareMissing e first s)

/-- FRAME_GROUP (R127). With the link DOWN no group completes (log entry 23). A pending trigger that the group reaches is
judged again (R115) before a cut that the group closes is processed by a writer AT_CUT (R104, R123): no rule orders the
two (DESIGN CHOICE, log entry 52). -/
def execFrameGroup (first : BitVec 64) (frames : Vector (Vector Sample 8) 32) (s : State) :
    Host.Outcome State Fault Refusal :=
  .next
    (if s.intake.linkUp && s.intake.state = .accepting then
      captureEvent (cutClosed (settle (takeGroup first.toNat frames s)))
    else s)

/-- The group whose transfer fixed the session's first frame at START has failed: the first group taken will fix it
(R135). -/
def forgetFirstFrame (s : State) : State :=
  match s.intake.inTransfer with
  | .partialGroup _ =>
    setAligner (fun a => { a with firstFrame := none, armingFrame := none })
      (setWriter (fun w => { w with nextFrame := none }) (setIntake (fun k => { k with firstFrame := none }) s))
  | _ => s

/-- LINK_DOWN (R126). A group in transfer is discarded. -/
def execLinkDown (s : State) : Host.Outcome State Fault Refusal :=
  .next
    (if s.intake.linkUp then
      logFault .intake .linkDown (s.intake.expected.getD 0)
        (countIntake (fun c => { c with linkDown := sat c.linkDown 1 })
          (setIntake (fun k => { k with linkUp := false, inTransfer := .nothing }) (forgetFirstFrame s)))
    else s)

/-- LINK_UP (R126). The first change to UP after power-on is taken quietly. -/
def execLinkUp (s : State) : Host.Outcome State Fault Refusal :=
  .next
    (if s.intake.linkUp then s
    else
      let s1 := setIntake (fun k => { k with linkUp := true, linkSeen := true }) s
      if s.intake.linkSeen then
        logFault .intake .linkUp 0 (countIntake (fun c => { c with linkUp := sat c.linkUp 1 }) s1)
      else s1)

/-! ## The trigger link (R109) -/

/-- TRIGGER_MESSAGE (R109): stamped and judged in RUNNING and FINISHING, discarded with no count otherwise. -/
def execTriggerMessage (m : TrigMessage) (s : State) : Host.Outcome State Fault Refusal :=
  .next (if s.counting then captureEvent (judgeMessage m s).2 else s)

end Sys2Proof.Machine
end

