-- ==== Sys2Proof/Machine/Windows.lean ====
section
/-! DEFINITION. The hold requests, hold expiry and the read aperture (03_holds_and_read_windows.md). -/

namespace Sys2Proof.Machine

/-- Change port p's port unit. -/
def modifyPort (p : Port) (f : PortUnit → PortUnit) (s : State) : State := s.setPort p (f (s.port p))

/-- Change port p's side of the hold table. -/
def modifyBank (p : Port) (f : HoldBank → HoldBank) (s : State) : State := s.setBank p (f (s.bank p))

/-! ## PLACE_HOLD (R47, R48) -/

/-- The entries of a range of numbers. -/
def Catalog.range (c : Catalog) (first last : Nat) : List Entry :=
  c.entries.filter (fun e => decide (first ≤ e.number) && decide (e.number ≤ last))

/-- A record number (R2). -/
def recordNumber (n : Nat) : Bool := decide (1 ≤ n) && decide (n ≤ Config.lastRecordNumber)

/-- The range, kind and window of a placement are legal (R47). -/
def HoldArgs.legal (a : HoldArgs) : Bool :=
  recordNumber a.first && recordNumber a.last && decide (a.first ≤ a.last) &&
    decide (a.last < a.first + Config.holdSpan) && decide (a.kind ≤ 1) && a.window.all Window.legal

/-- The checks of PLACE_HOLD in their order (R47). -/
def placeStatus (p : Port) (a : HoldArgs) (s : State) : Status :=
  let es := s.catalog.range a.first a.last
  if !a.legal then .range
  else if decide (a.first < s.catalog.head) || es.any (fun e => e.state = .lost || e.state = .retired) then .gone
  else if decide (s.catalog.tail < a.last) || es.any (fun e => e.state = .opened) then .notSealed
  else if (s.bank p).freeSlot.isNone then .noSlot
  else .ok

/-- A refused hold request is counted (R47, R50, R51). -/
def refuseHold (r : Passed) (st : Status) (s : State) : State :=
  answer r st 0 [] (countHolds (fun c => { c with refused := sat c.refused 1 }) s)

/-- PLACE_HOLD from a port (R47, R48). -/
def placeHold (r : Passed) (a : HoldArgs) (s : State) : State :=
  match placeStatus r.port a s, (s.bank r.port).freeSlot with
  | .ok, some i =>
    let tag := (s.bank r.port).tagCounter + 1
    let h : Hold :=
      { tag := tag, kind := if a.kind = 0 then .firm else .yielding, first := a.first, last := a.last
        interval := a.interval, remaining := a.interval, ticks := 0, window := a.window }
    answer r .ok 0 [⟨0, 1, i.val⟩, ⟨2, 2, tag.toNat⟩]
      (countHolds (fun c => { c with placed := sat c.placed 1 })
        (modifyBank r.port (fun b => { b.setSlot i (some h) with tagCounter := tag }) s))
  | st, _ => refuseHold r st s

/-! ## RENEW_HOLD, RELEASE_HOLD, QUERY_HOLDS (R50, R51, R55) -/

/-- The hold that a slot number and a tag name (R50, R51). -/
def HoldBank.named (b : HoldBank) (slot : Nat) (tag : BitVec 16) : Except Status (Fin 16 × Hold) :=
  if h : slot < 16 then
    match b.hold ⟨slot, h⟩ with
    | none => .error .unknownHold
    | some k => if k.tag = tag then .ok (⟨slot, h⟩, k) else .error .unknownHold
  else .error .range

/-- RENEW_HOLD from a port (R50). -/
def renewHold (r : Passed) (slot : Nat) (tag : BitVec 16) (s : State) : State :=
  match (s.bank r.port).named slot tag with
  | .error st => refuseHold r st s
  | .ok (i, h) =>
    answer r .ok 0 []
      (countHolds (fun c => { c with renewed := sat c.renewed 1 })
        (modifyBank r.port (fun b => b.setSlot i (some { h with remaining := h.interval, ticks := 0 })) s))

/-- RELEASE_HOLD from a port (R51). -/
def releaseHold (r : Passed) (slot : Nat) (tag : BitVec 16) (s : State) : State :=
  match (s.bank r.port).named slot tag with
  | .error st => refuseHold r st s
  | .ok (i, _) =>
    answer r .ok 0 [] (countHolds (fun c => { c with released := sat c.released 1 }) (freeHold r.port i s))

/-- The window size code of QUERY_HOLDS (R190): log2 of the size less 20, 0 for no window. -/
def windowCode (w : Option Window) : Nat :=
  match w with
  | none => 0
  | some w => Nat.log2 w.size - 20

/-- The 14 bytes of a slot in QUERY_HOLDS (R190); a FREE slot reads as zeros. The window base of a hold that opens no window,
for which R190 gives no value, is 0 (DESIGN CHOICE, log entry 54). -/
def slotPayload (off : Nat) (h : Option Hold) : List Field :=
  match h with
  | none => []
  | some h =>
    [⟨off, 1, 1 + bit (h.kind = .yielding) 1 + 4 * windowCode h.window⟩, ⟨off + 1, 2, h.tag.toNat⟩,
     ⟨off + 3, 4, h.first⟩, ⟨off + 7, 1, h.last - h.first⟩, ⟨off + 8, 2, h.interval⟩, ⟨off + 10, 2, h.remaining⟩,
     ⟨off + 12, 2, (h.window.map (fun w => w.base / Config.blockBytes)).getD 0⟩]

/-- The eight slots of a group (R55). -/
def groupPayload (b : HoldBank) (upper : Bool) : List Field :=
  let slots := if upper then slots16.drop 8 else slots16.take 8
  slots.flatMap (fun i => slotPayload (14 * (i.val % 8)) (b.hold i))

/-- QUERY_HOLDS from a port (R55). -/
def queryHolds (r : Passed) (upper : Bool) (s : State) : State :=
  answer r .ok (s.bank r.port).tagCounter.toNat (groupPayload (s.bank r.port) upper) s

/-- The hold's timer reaches 0 (R52). -/
def expireHold (p : Port) (i : Fin 16) (s : State) : State :=
  match (s.bank p).hold i with
  | none => s
  | some h =>
    if h.interval = 0 then s
    else
      notify p .holdExpired [⟨0, 1, i.val⟩, ⟨2, 2, h.tag.toNat⟩]
        (countHolds (fun c => { c with expired := sat c.expired 1 }) (freeHold p i s))

/-! ## Translation (R61, R62) -/

/-- The DATA entries of a window, in increasing number (R57). -/
def State.windowRecords (s : State) (h : Hold) : List (Nat × DataFields) :=
  (s.catalog.range h.first h.last).filterMap (fun e => e.data?.map (fun d => (e.number, d)))

/-- The record of a window offset, and the record offset (R61, step 1). -/
def locate : List (Nat × DataFields) → Nat → Option (Nat × DataFields × Nat)
  | [], _ => none
  | (n, d) :: ds, o => if o < d.bytes then some (n, d, o) else locate ds (o - d.bytes)

/-- The pieces of `len` bytes from window offset `o` on (R61, R62, R63). Every piece holds at least one byte. -/
def State.translate (s : State) (ds : List (Nat × DataFields)) : Nat → Nat → Nat → List Piece
  | 0, _, _ => []
  | fuel + 1, o, len =>
    if len = 0 then []
    else
      match locate ds o with
      | none => [.zeros len]
      | some (n, d, r) =>
        match s.recordAddress d r with
        | none => [.zeros len]
        | some (a, room) =>
          let k := min len (min room (d.bytes - r))
          .run { addr := a, len := k, record := n, epoch := s.catalog.epoch, data := none } ::
            s.translate ds fuel (o + k) (len - k)

/-- The pieces of a read of `len` bytes at an aperture address that a hold's window answers (R58, R61, R62). -/
def State.readPieces (s : State) (h : Hold) (w : Window) (a len : Nat) : List Piece :=
  let inside := min len (w.base + w.size - a)
  s.translate (s.windowRecords h) (len + 1) (a - w.base) inside ++
    (if inside < len then [.zeros (len - inside)] else [])

/-! ## Answers (R62, R63) -/

/-- The bytes of a piece; none while its run has not been read. -/
def Piece.bytes : Piece → Option (List Byte)
  | .zeros n => some (List.replicate n 0)
  | .run r => r.data

/-- A piece of zero bytes. -/
def Piece.isZero : Piece → Bool
  | .zeros _ => true
  | .run _ => false

/-- The bytes of a read once every run has returned. -/
def readBytes : List Piece → Option (List Byte)
  | [] => some []
  | k :: ks =>
    match k.bytes, readBytes ks with
    | some b, some bs => some (b ++ bs)
    | _, _ => none

/-- A read is answered with its data (R62, R63). -/
def answerRead (p : Port) (a : Nat) (pieces : List Piece) (bytes : List Byte) (s : State) : State :=
  emit p (.readData a bytes)
    (countPort p
      (fun c =>
        { c with
          bytesRead := sat c.bytesRead bytes.length
          overReads := if pieces.any Piece.isZero then sat c.overReads 1 else c.overReads }) s)

/-- The bursts of a read: its runs, in increasing record offset (R63, R141). -/
def readBursts (p : Port) (id : Nat) : Nat → List Piece → List WindowBurst
  | _, [] => []
  | i, .zeros _ :: ks => readBursts p id (i + 1) ks
  | i, .run r :: ks =>
    { port := p, read := id, piece := i, addr := r.addr, len := r.len, record := r.record, epoch := r.epoch } ::
      readBursts p id (i + 1) ks

/-- A translated read is asked of the memory service (R63), or answered at once when it needs none (R62). -/
def serveRead (p : Port) (a len : Nat) (pieces : List Piece) (s : State) : State :=
  match readBytes pieces with
  | some bytes => answerRead p a pieces bytes s
  | none =>
    let id := (s.bank p).nextRead
    let s1 :=
      modifyBank p
        (fun b =>
          { b with
            nextRead := id + 1
            reads := b.reads ++ [{ id := id, addr := a, len := len, pieces := pieces, age := 0 }] }) s
    arbitrate { s1 with mem := s1.mem.setWindowAsk p (s1.mem.windowAsk p ++ readBursts p id 0 pieces) }

/-! ## WINDOW_READ (R58 to R60) -/

/-- An unmapped read (R60). The error response stands on the link after what the fault report sends (DESIGN CHOICE, log
entry 21: R168 orders them not). -/
def unmappedRead (p : Port) (a : Nat) (s : State) : State :=
  emit p (.readError a)
    (logFault (portFault p) .unmappedRead a
      (countPort p (fun c => { c with unmappedReads := sat c.unmappedReads 1 })
        (modifyPort p (fun u => { u with unmappedRead := true }) s)))

/-- A decode conflict (R59): flag, count and fault. -/
def decodeConflict (p : Port) (a : Nat) (s : State) : State :=
  logFault (portFault p) .decodeConflict a
    (countPort p (fun c => { c with decodeConflicts := sat c.decodeConflicts 1 })
      (modifyPort p (fun u => { u with decodeConflict := true }) s))

/-- The window of a slot answers a read (R58). -/
def answerBySlot (p : Port) (i : Fin 16) (a len : Nat) (s : State) : State :=
  match (s.bank p).hold i with
  | none => s
  | some h =>
    match h.window with
    | none => s
    | some w => serveRead p a len (s.readPieces h w a len) s

/-- The decoding of a read (R58 to R60). In a conflict the error response stands on the link after what the fault report
sends (DESIGN CHOICE, log entry 21: R168 orders them not). -/
def windowRead (p : Port) (a len : Nat) (s0 : State) : State :=
  let s := countPort p (fun c => { c with windowReads := sat c.windowReads 1 }) s0
  match (s.bank p).answering a with
  | [] => unmappedRead p a s
  | [i] => answerBySlot p i a len s
  | i :: _ :: _ =>
    let s1 := decodeConflict p a s
    if (s.port p).conflictErrorEnable then emit p (.readError a) s1 else answerBySlot p i a len s1

/-- WINDOW_READ (R58). -/
def execWindowRead (p : Port) (addr len : Nat) (s : State) : Host.Outcome State Fault Refusal :=
  if apertureAddress addr && linkLength len then .next (windowRead p addr len s) else .refused .illFormed

/-! ## The end of a window read (R63 to R67) -/

/-- Withdraw the bursts of a read that have not been granted (R141). -/
def withdrawRead (p : Port) (id : Nat) (s : State) : State :=
  { s with mem := s.mem.setWindowAsk p ((s.mem.windowAsk p).filter (fun b => b.read ≠ id)) }

/-- A read in flight ends: it is withdrawn and leaves the reads in flight. -/
def endRead (p : Port) (id : Nat) (s : State) : State :=
  withdrawRead p id (modifyBank p (fun b => { b with reads := b.reads.filter (fun r => r.id ≠ id) }) s)

/-- The data of a run joins its piece. -/
def Piece.fill (data : List Byte) : Piece → Piece
  | .run r => .run { r with data := some data }
  | k => k

/-- The data of a burst joins the read it serves; the read is answered once every burst has returned (R63). -/
def fillRead (b : WindowBurst) (data : List Byte) (r : ReadInFlight) (s : State) : State :=
  let pieces := r.pieces.modify b.piece (Piece.fill data)
  match readBytes pieces with
  | some bytes => answerRead b.port r.addr pieces bytes (endRead b.port r.id s)
  | none =>
    modifyBank b.port
      (fun k => { k with reads := k.reads.map (fun x => if x.id = r.id then { x with pieces := pieces } else x) }) s

/-- A completed window-read burst at the hold table (R63, R64; log entry 34). The response stands on the link after what the
fault reports of R147 send (DESIGN CHOICE, log entry 21: R168 orders them not). -/
def windowBurstDone (b : WindowBurst) (res : ReadResult) (s : State) : State :=
  let s1 := res.bad.foldl (fun s _ => damageEntry b.record b.epoch s) s
  match (s.bank b.port).reads.find? (fun r => r.id = b.read) with
  | none => s1
  | some r =>
    if res.bad.isEmpty then fillRead b res.data r s1
    else emit b.port (.readError r.addr) (endRead b.port r.id s1)

/-- WINDOW_READ_BURST_DONE (R63, R64). The other bursts of a read that fails are withdrawn before the arbiter's next grant
(DESIGN CHOICE, log entry 21: R64, R141 and R142 do not order the two). -/
def execWindowReadBurstDone (strikes : List Strike) (s : State) : Host.Outcome State Fault Refusal :=
  match s.mem.busy with
  | some (.window b) =>
    if inCapture b.addr b.len then
      let s1 := strikeAll strikes s
      let r := s1.mem.readBurst b.addr b.len
      .next (arbitrate (windowBurstDone b r (readEffects r (releaseGrant s1))))
    else .fault .outsideCaptureMemory
  | _ => .next s

/-- A window read not answered in time (R65). The error response stands on the link after what the fault report sends
(DESIGN CHOICE, log entry 21: R168 orders them not). -/
def timeoutRead (p : Port) (r : ReadInFlight) (s : State) : State :=
  emit p (.readError r.addr)
    (logFault (portFault p) .readTimeout r.addr
      (countPort p (fun c => { c with readTimeouts := sat c.readTimeouts 1 })
        (modifyPort p (fun u => { u with readTimeout := true }) (endRead p r.id s))))

/-- READ_TIMEOUT (R65). -/
def execReadTimeout (p : Port) (n : Nat) (s : State) : Host.Outcome State Fault Refusal :=
  .next
    (match (s.bank p).reads[n]? with
     | none => s
     | some r => timeoutRead p r s)

/-- APERTURE_WRITE (R66). The response stands on the link after what the fault report sends (DESIGN CHOICE, log entry 21:
R168 orders them not). -/
def execApertureWrite (p : Port) (addr : Nat) (bytes : List Byte) (s : State) :
    Host.Outcome State Fault Refusal :=
  if apertureAddress addr && linkLength bytes.length then
    .next
      (emit p (if (s.port p).writeErrorEnable then .apertureError addr else .apertureAck addr)
        (logFault (portFault p) .writeViolation addr
          (countPort p (fun c => { c with writeViolations := sat c.writeViolations 1 })
            (modifyPort p (fun u => { u with writeViolation := true }) s))))
  else .refused .illFormed

/-- HOLD_EXPIRY (R52). -/
def execHoldExpiry (p : Port) (slot : Fin 16) (s : State) : Host.Outcome State Fault Refusal :=
  .next (expireHold p slot s)

/-- PLACE_HOLD (R47). -/
def execPlaceHold (p : Port) (s : State) : Host.Outcome State Fault Refusal :=
  .next
    (match takePassed p 0x08 s with
     | some (r, s1) =>
       match r.request with
       | .placeHold a => placeHold r a s1
       | _ => s1
     | none => s)

/-- RENEW_HOLD (R50). -/
def execRenewHold (p : Port) (s : State) : Host.Outcome State Fault Refusal :=
  .next
    (match takePassed p 0x09 s with
     | some (r, s1) =>
       match r.request with
       | .renewHold slot tag => renewHold r slot tag s1
       | _ => s1
     | none => s)

/-- RELEASE_HOLD (R51). -/
def execReleaseHold (p : Port) (s : State) : Host.Outcome State Fault Refusal :=
  .next
    (match takePassed p 0x0A s with
     | some (r, s1) =>
       match r.request with
       | .releaseHold slot tag => releaseHold r slot tag s1
       | _ => s1
     | none => s)

/-- QUERY_HOLDS (R55). -/
def execQueryHolds (p : Port) (s : State) : Host.Outcome State Fault Refusal :=
  .next
    (match takePassed p 0x0B s with
     | some (r, s1) =>
       match r.request with
       | .queryHolds upper => queryHolds r upper s1
       | _ => s1
     | none => s)

end Sys2Proof.Machine
end

