-- ==== Sys2Proof/Machine/Triggers.lean ====
section
/-! DEFINITION. The aligner's requests: ARM, DISARM and FORCE_TRIGGER (R118 to R120). -/

namespace Sys2Proof.Machine

/-- The value of an aligner state (R190). -/
def AlignerState.code : AlignerState → Nat
  | .disarmed => 0
  | .arming => 1
  | .armed => 2
  | .capturing => 3
  | .holdoff => 4
  | .marking => 5

/-- The payload that ARM, DISARM and FORCE_TRIGGER share, refusals included (R190). -/
def alignerPayload (a : Aligner) : List Field :=
  [⟨0, 1, a.state.code⟩, ⟨8, 8, a.armingFrame.getD 0⟩, ⟨16, 8, a.newest.getD 0⟩]

/-- The checks that ARM and DISARM share (R118, R119). -/
def armStatus (s : State) : Status :=
  if s.session.state ≠ .running then .busy
  else if s.aligner.params.mode = .continuous then .wrongMode
  else .ok

/-- The arming frame of ARM (R118): absent until the session's first frame is known. -/
def Aligner.armFrame (a : Aligner) : Option Nat :=
  match a.newest with
  | some n => some (n + 1)
  | none => a.firstFrame

/-- The changes that would hold from a later frame are superseded by one that holds from `frame`: a DISARM taken in HOLDOFF
holds from the frame after the holdoff end (R119), an ARM after it from its arming frame (R118). -/
def dropLaterChanges (frame : Nat) (s : State) : State :=
  setWriter (fun w => { w with changes := w.changes.filter (fun c => decide (c.1 ≤ frame)) }) s

/-- ARM from a port (R118). -/
def arm (r : Passed) (s : State) : State :=
  match armStatus s with
  | .ok =>
    if s.aligner.state = .disarmed then
      let s1 :=
        settle (enterArming s.aligner.armFrame
          (tellWriter s.aligner.nextReceived .toPretrigger (dropLaterChanges s.aligner.nextReceived s)))
      captureEvent (answer r .ok 0 (alignerPayload s1.aligner) s1)
    else answer r .busy 0 (alignerPayload s.aligner) s
  | st => answer r st 0 (alignerPayload s.aligner) s

/-- The effect of an accepted DISARM by the aligner's state (R119; log entry 25 for a STARVED writer). -/
def disarmEffect (s : State) : State :=
  match s.aligner.state with
  | .capturing => setAligner (fun a => { a with disarmAfterSeal := true }) s
  | .holdoff => enterDisarmed (tellWriter (s.aligner.holdoffEnd.getD 0 + 1) .toPassing s)
  | .arming =>
    enterDisarmed
      (tellWriter s.aligner.nextReceived .toPassing
        (leaveStarved (clearMarks .ignored (clearHandOver .ignored s))))
  | .armed =>
    enterDisarmed
      (tellWriter s.aligner.nextReceived .toPassing
        (leaveStarved (clearMarks .ignored (clearHandOver .ignored s))))
  | _ => s

/-- DISARM from a port (R119). The completion says whether a record is still to complete. WRITER_RESUMED of a STARVED writer
(R100) stands before it (DESIGN CHOICE, log entry 21: R172 lets either come first). -/
def disarm (r : Passed) (s : State) : State :=
  match armStatus s with
  | .ok =>
    let s1 := settle (disarmEffect (clearPending s))
    captureEvent
      (answer r .ok 0
        (⟨1, 1, bit (s.aligner.state = .capturing) 0⟩ :: alignerPayload s1.aligner) s1)
  | st => answer r st 0 (alignerPayload s.aligner) s

/-- FORCE_TRIGGER from a port (R120; log entry 8 for the stamped frame index with no frame received). -/
def forceTrigger (r : Passed) (s0 : State) : State :=
  let (stamped, s) := indexOrFree s0.aligner.newest s0
  let (o, s1) :=
    if s.counting then judgeRaw .main 0 0 (countTrigger (fun c => { c with forced := sat c.forced 1 }) s)
    else (.noSession, s)
  let s2 := settle s1
  captureEvent (answer r .ok 0 (⟨2, 1, o.code⟩ :: ⟨24, 8, stamped⟩ :: alignerPayload s2.aligner) s2)

/-- ARM (R118). -/
def execArm (p : Port) (s : State) : Host.Outcome State Fault Refusal :=
  .next
    (match takePassed p 0x18 s with
     | some (r, s1) => arm r s1
     | none => s)

/-- DISARM (R119). -/
def execDisarm (p : Port) (s : State) : Host.Outcome State Fault Refusal :=
  .next
    (match takePassed p 0x19 s with
     | some (r, s1) => disarm r s1
     | none => s)

/-- FORCE_TRIGGER (R120). -/
def execForceTrigger (p : Port) (s : State) : Host.Outcome State Fault Refusal :=
  .next
    (match takePassed p 0x1A s with
     | some (r, s1) => forceTrigger r s1
     | none => s)

end Sys2Proof.Machine
end

