-- ==== Sys2Proof/Machine/Queries.lean ====
section
/-! DEFINITION. DESCRIBE (R175), the catalog's queries (R21 to R24) and the requests of the counter and fault unit (R181,
R185, R186). -/

namespace Sys2Proof.Machine

/-! ## DESCRIBE (R175) -/

/-- The value of the calibration status (R190). -/
def Calibration.code : Calibration → Nat
  | .calibrating => 0
  | .ready => 1
  | .failed => 2

/-- The payload of DESCRIBE (R175, R190). -/
def describePayload (s : State) : List Field :=
  [⟨0, 2, 0x4208⟩, ⟨2, 1, 1⟩, ⟨3, 1, s.mem.cal.code⟩, ⟨4, 4, Config.blockBytes⟩, ⟨8, 2, Config.blockCount⟩,
   ⟨10, 2, Config.blockCount - s.blocks.faulty⟩, ⟨12, 2, Config.catalogEntries⟩, ⟨14, 1, 16⟩, ⟨15, 1, 8⟩,
   ⟨16, 1, 32⟩, ⟨17, 1, 64⟩, ⟨18, 1, 64⟩, ⟨19, 1, 128⟩, ⟨20, 4, Config.intakeBytes⟩, ⟨24, 1, Config.cutsMax⟩,
   ⟨25, 1, Config.marksKept⟩, ⟨26, 1, Config.bufferListMax⟩, ⟨27, 1, 6⟩]

/-- DESCRIBE (R175). -/
def execDescribe (p : Port) (s : State) : Host.Outcome State Fault Refusal :=
  .next
    (match takePassed p 0x01 s with
     | some (r, s1) => answer r .ok 0 (describePayload s1) s1
     | none => s)

/-! ## QUERY_SPAN (R22) -/

/-- How many entries satisfy a test. -/
def Catalog.count (c : Catalog) (q : Entry → Bool) : Nat := (c.entries.filter q).length

/-- How many DATA entries are in a state. -/
def Catalog.dataCount (c : Catalog) (st : EntryState) : Nat := c.count (fun e => e.isData && e.state = st)

/-- How many GAP entries are in a state. -/
def Catalog.gapCount (c : Catalog) (st : EntryState) : Nat := c.count (fun e => !e.isData && e.state = st)

/-- The last-reclaim fields of QUERY_SPAN (R22, R39, R190). Its fields while the record is absent (bytes 41 to
59), for which no rule gives values, are zero (DESIGN CHOICE, log entry 53). -/
def lastReclaimFields : Option LastReclaim → List Field
  | none => []
  | some l =>
    [⟨40, 1, 1⟩, ⟨41, 1, bit (l.occasion = .catalogFull) 0⟩, ⟨42, 1, if l.lost then 4 else 5⟩,
     ⟨43, 1, l.revoked⟩, ⟨44, 4, l.number⟩, ⟨48, 2, l.blockCount⟩, ⟨52, 8, l.frame⟩]

/-- The payload of QUERY_SPAN (R22, R190). -/
def spanPayload (s : State) : List Field :=
  [⟨0, 4, s.catalog.head⟩, ⟨4, 4, s.catalog.tail⟩, ⟨8, 4, s.catalog.next⟩, ⟨12, 4, s.catalog.session.toNat⟩,
   ⟨16, 2, s.catalog.dataCount .opened⟩, ⟨18, 2, s.catalog.dataCount .sealed⟩,
   ⟨20, 2, s.catalog.dataCount .archived⟩, ⟨22, 2, s.catalog.dataCount .lost⟩,
   ⟨24, 2, s.catalog.dataCount .retired⟩, ⟨26, 2, s.catalog.gapCount .sealed⟩,
   ⟨28, 2, s.catalog.gapCount .retired⟩, ⟨30, 2, s.blocks.free.length⟩, ⟨32, 2, s.blocks.faulty⟩,
   ⟨34, 1, boundCode s.engine.bound⟩, ⟨36, 4, s.engine.cursor⟩] ++ lastReclaimFields s.blocks.last

/-- QUERY_SPAN (R22). -/
def execQuerySpan (p : Port) (s : State) : Host.Outcome State Fault Refusal :=
  .next
    (match takePassed p 0x02 s with
     | some (r, s1) => answer r .ok 0 (spanPayload s1) s1
     | none => s)

/-! ## QUERY_RECORD and QUERY_MARKS (R21, R23, R24) -/

/-- The checks of a record number in their order (R21). -/
def queryStatus (n : Nat) (c : Catalog) : Status :=
  if n = 0 ∨ n = Config.lastRecordNumber + 1 then .range
  else if n < c.head then .gone
  else if c.tail < n then .range
  else .ok

/-- A query about one record number. -/
def queryEntry (r : Passed) (n : Nat) (payload : Entry → List Field) (s : State) : State :=
  match queryStatus n s.catalog, s.catalog.find n with
  | .ok, some e => answer r .ok 0 (payload e) s
  | st, _ => answer r st 0 [] s

/-- The marks of QUERY_MARKS from an offset on (R190). -/
def markPayload (first off : Nat) : List Mark → List Field
  | [] => []
  | m :: ms =>
    ⟨off, 4, m.frame - first⟩ :: ⟨off + 4, 1, m.fine.toNat⟩ :: ⟨off + 5, 1, sourceCode m.source⟩ ::
      markPayload first (off + 6) ms

/-- The payload of QUERY_MARKS (R24, R190). -/
def marksPayload (e : Entry) : List Field :=
  match e.body with
  | .data d =>
    [⟨0, 1, 1⟩, ⟨1, 1, d.marks.length⟩, ⟨2, 1, d.markOverflow⟩, ⟨8, 8, d.first⟩] ++ markPayload d.first 16 d.marks
  | .gap _ => [⟨0, 1, 2⟩]

/-- QUERY_RECORD (R23). -/
def execQueryRecord (p : Port) (s : State) : Host.Outcome State Fault Refusal :=
  .next
    (match takePassed p 0x03 s with
     | some (r, s1) =>
       match r.request with
       | .queryRecord n => queryEntry r n Entry.descriptorFields s1
       | _ => s1
     | none => s)

/-- QUERY_MARKS (R24). -/
def execQueryMarks (p : Port) (s : State) : Host.Outcome State Fault Refusal :=
  .next
    (match takePassed p 0x04 s with
     | some (r, s1) =>
       match r.request with
       | .queryMarks n => queryEntry r n marksPayload s1
       | _ => s1
     | none => s)

/-! ## READ_COUNTERS (R178, R181, R190) -/

/-- Fields of 8 bytes laid end to end from an offset. -/
def longFields (off : Nat) : List Nat → List Field
  | [] => []
  | n :: ns => ⟨off, 8, n⟩ :: longFields (off + 8) ns

/-- The largest value of a 4-byte count of the ARCHIVE group (R190). -/
def cap32 (n : Nat) : Nat := min n 4294967295

/-- Records completed: the sum of the size buckets (R178). -/
def ArchiveCounters.completed (c : ArchiveCounters) : Nat :=
  min (c.buckets.toList.foldl (fun a b => a + b) 0) Config.counterMax

/-- The ARCHIVE group as READ_COUNTERS returns it (R190). -/
def ArchiveCounters.payload (c : ArchiveCounters) : List Field :=
  [⟨0, 8, c.completed⟩, ⟨8, 8, c.lossFrames⟩, ⟨16, 8, c.gapFrames⟩, ⟨24, 8, c.bytesWritten⟩, ⟨32, 8, c.filled⟩,
   ⟨40, 8, c.flushed⟩, ⟨48, 4, cap32 c.linkErrors⟩, ⟨52, 4, cap32 c.rewinds⟩, ⟨56, 8, c.damagedSent⟩] ++
    longFields 64 c.buckets.toList

/-- The session totals in the order of R159. -/
def Totals.list (t : Totals) : List Nat := [t.received, t.missing, t.written, t.dropped, t.passedOver]

/-- The counters of a PORT group in the order of R178. -/
def PortCounters.list (c : PortCounters) : List Nat :=
  [c.requestsTaken, c.windowReads, c.bytesRead, c.overReads, c.unmappedReads, c.writeViolations,
   c.decodeConflicts, c.readTimeouts, c.noticesMissed]

/-- The counters of the INTAKE group in the order of R178. -/
def IntakeCounters.list (c : IntakeCounters) : List Nat :=
  [c.groupsTaken, c.groupsMalformed, c.linkDown, c.linkUp, c.dropsFull, c.dropsIndex, c.dropsStop, c.dropsAbort,
   c.episodes]

/-- The counters of the TRIGGER group in the order of R178. -/
def TriggerCounters.list (c : TriggerCounters) : List Nat :=
  [c.accepted, c.early, c.stale, c.overrun, c.ignored, c.lostToDrop, c.marksKept, c.marksOverflowed, c.lateMarks,
   c.forced]

/-- The counters of the CATALOG group in the order of R178. -/
def CatalogCounters.list (c : CatalogCounters) : List Nat :=
  [c.opened, c.sealed, c.truncated, c.gaps, c.lost, c.retired, c.headRemovals, c.fullStalls]

/-- The counters of the HOLDS group in the order of R178. -/
def HoldCounters.list (c : HoldCounters) : List Nat :=
  [c.placed, c.renewed, c.released, c.expired, c.revoked, c.refused]

/-- The counters of the MEMORY group in the order of R178. -/
def MemoryCounters.list (c : MemoryCounters) : List Nat :=
  [c.corrected, c.uncorrectable, c.refreshOverdue, c.blocksRetired, c.reclaims, c.reclaimFailures]

/-- The payload of a group by its number (R188, R190). -/
def groupCounters (s : State) (g : Nat) : List Field :=
  match g with
  | 0 => longFields 0 s.session.totals.list
  | 1 => longFields 0 s.counters.intake.list
  | 2 => longFields 0 s.counters.trigger.list
  | 3 => longFields 0 s.counters.catalog.list
  | 4 => s.counters.archive.payload
  | 5 => longFields 0 s.counters.holds.list
  | 6 => longFields 0 s.counters.port0.list
  | 7 => longFields 0 s.counters.port1.list
  | _ => longFields 0 s.counters.memory.list

/-- A group's counters are set to 0 (R181); SESSION is not cleared. -/
def clearGroup (g : Nat) (c : Counters) : Counters :=
  match g with
  | 1 => { c with intake := IntakeCounters.zero }
  | 2 => { c with trigger := TriggerCounters.zero }
  | 3 => { c with catalog := CatalogCounters.zero }
  | 4 => { c with archive := ArchiveCounters.zero }
  | 5 => { c with holds := HoldCounters.zero }
  | 6 => { c with port0 := PortCounters.zero }
  | 7 => { c with port1 := PortCounters.zero }
  | 8 => { c with memory := MemoryCounters.zero }
  | _ => c

/-- READ_COUNTERS from a port (R181). A RANGE carries detail 0, since its value is no group's number (DESIGN CHOICE, log
entry 49: R190 does not say). -/
def readCounters (r : Passed) (g : Nat) (clear : Bool) (s : State) : State :=
  if g ≤ 8 then
    let cleared : Bool := clear && decide (g ≠ 0)
    answer r .ok (g + 256 * bit cleared 0) (groupCounters s g)
      (if cleared then { s with counters := clearGroup g s.counters } else s)
  else answer r .range 0 [] s

/-- READ_COUNTERS (R181). -/
def execReadCounters (p : Port) (s : State) : Host.Outcome State Fault Refusal :=
  .next
    (match takePassed p 0x28 s with
     | some (r, s1) =>
       match r.request with
       | .readCounters g clear => readCounters r g clear s1
       | _ => s1
     | none => s)

/-! ## The fault requests (R185, R186) -/

/-- The 17 bytes of a fault record (R190). -/
def FaultRecord.fields (off : Nat) (f : FaultRecord) : List Field :=
  [⟨off, 1, bit f.valid 0 + bit f.overflow 1 + 4 * f.kind⟩, ⟨off + 1, 8, f.detail.toNat⟩, ⟨off + 9, 8, f.frame⟩]

/-- The unit numbers, in order (R188). -/
def unitNumbers : List (Fin 6) := [0, 1, 2, 3, 4, 5]

/-- The six records, each shown as `f` gives it (R190). -/
def recordFields (f : Fin 6 → FaultRecord) : List Field :=
  unitNumbers.flatMap (fun u => (f u).fields (17 * u.val))

/-- READ_FAULTS (R185). -/
def execReadFaults (p : Port) (s : State) : Host.Outcome State Fault Refusal :=
  .next
    (match takePassed p 0x29 s with
     | some (r, s1) =>
       answer r .ok 0
         (recordFields (fun u => s1.faults.records.get u) ++
           unitNumbers.map (fun u => ⟨102 + u.val, 1, (s1.faults.masks.get u).toNat⟩)) s1
     | none => s)

/-- The records of the named units are cleared (R185). -/
def clearRecords (units : BitVec 8) (f : Faults) : Faults :=
  { f with
    records := Vector.ofFn (fun u => if units.getLsbD u.val then FaultRecord.clear else f.records.get u) }

/-- CLEAR_FAULTS from a port (R185). -/
def clearFaults (r : Passed) (units : BitVec 8) (s : State) : State :=
  if units.toNat < 64 then
    answer r .ok 0
      (recordFields (fun u => if units.getLsbD u.val then s.faults.records.get u else FaultRecord.clear))
      { s with faults := clearRecords units s.faults }
  else answer r .range 0 [] s

/-- CLEAR_FAULTS (R185). -/
def execClearFaults (p : Port) (s : State) : Host.Outcome State Fault Refusal :=
  .next
    (match takePassed p 0x2A s with
     | some (r, s1) =>
       match r.request with
       | .clearFaults units => clearFaults r units s1
       | _ => s1
     | none => s)

/-- How many kinds a unit has, by its number (R182, R188). -/
def unitKinds (u : Nat) : Nat :=
  match u with
  | 0 => FaultUnit.kinds .intake
  | 1 => FaultUnit.kinds .memory
  | 2 => FaultUnit.kinds .archive
  | 3 => FaultUnit.kinds .writer
  | 4 => FaultUnit.kinds .port0
  | 5 => FaultUnit.kinds .port1
  | _ => 0

/-- SET_FAULT_ENABLE from a port (R186). -/
def setFaultEnable (r : Passed) (u : Nat) (mask : BitVec 8) (s : State) : State :=
  if h : u < 6 then
    if mask.toNat < 2 ^ unitKinds u then
      answer r .ok 0 [⟨0, 1, (s.faults.masks.get ⟨u, h⟩).toNat⟩, ⟨1, 1, mask.toNat⟩]
        { s with faults := { s.faults with masks := s.faults.masks.set u mask h } }
    else answer r .range 0 [] s
  else answer r .range 0 [] s

/-- SET_FAULT_ENABLE (R186). -/
def execSetFaultEnable (p : Port) (s : State) : Host.Outcome State Fault Refusal :=
  .next
    (match takePassed p 0x2B s with
     | some (r, s1) =>
       match r.request with
       | .setFaultEnable u mask => setFaultEnable r u mask s1
       | _ => s1
     | none => s)

end Sys2Proof.Machine
end

