-- ==== Sys2Proof/Machine/Sessions.lean ====
section
/-! DEFINITION. The session unit (09_sessions.md): CONFIGURE, START, STOP, ABORT and RESET_PART; and the answers to the
archive engine's writes, which can end a RESET_PART (R81, R87, R89, R90). -/

namespace Sys2Proof.Machine

/-- Change the session unit. -/
def setSession (f : Session → Session) (s : State) : State := { s with session := f s.session }

/-- The session unit takes a request: none while an ABORT or RESET_PART is in progress (R152). -/
def takeSession (p : Port) (code : Nat) (s : State) : Option (Passed × State) :=
  if s.session.inProgress.isSome then none else takePassed p code s

/-! ## CONFIGURE (R154) -/

/-- A 32-bit count that wraps to 1 (R3, R154). -/
def wrapToOne (n : BitVec 32) : BitVec 32 := if n = 0xFFFFFFFF then 1 else n + 1

/-- CONFIGURE from a port (R154). The completion of an accepted one shows the generation it produced, however long it is
held (log entry 44). -/
def configure (r : Passed) (c : RawConfig) (s : State) : State :=
  if s.session.state ≠ .stopped then answer r .busy 0 [] s
  else
    match c.badField with
    | some n => answer r .range n [] s
    | none =>
      let g := wrapToOne s.session.generation
      answerBy { r.completion .ok 0 [] with generation := some g } r
        (setSession (fun k => { k with config := some c.record, generation := g }) s)

/-- CONFIGURE (R154). -/
def execConfigure (p : Port) (s : State) : Host.Outcome State Fault Refusal :=
  .next
    (match takeSession p 0x20 s with
     | some (r, s1) =>
       match r.request with
       | .configure c => configure r c s1
       | _ => s1
     | none => s)

/-! ## START (R156 to R158) -/

/-- The checks of START in their order (R156). -/
def startStatus (generation : BitVec 32) (s : State) : Status :=
  if s.mem.cal = .calibrating then .busy
  else if s.mem.cal = .failed then .memoryFailed
  else if s.session.generation = 0 then .notConfigured
  else if generation ≠ s.session.generation then .stale
  else if s.session.state ≠ .stopped then .busy
  else .ok

/-- An entry that DISCARD converts (R158). -/
def State.convertible (s : State) (e : Entry) : Bool :=
  e.isData && e.archReq && e.state = .sealed && !s.firmHeld e.number && decide (s.engine.claim ≠ some e.number)

/-- The conversion of one entry (R42, R158). -/
def convertEntry (acc : Nat × State) (e : Entry) : Nat × State :=
  if acc.2.convertible e then
    let s1 := (revokeHolds e.number acc.2).2
    let chain := s1.chainOf (e.data?.bind (fun d => d.firstBlock))
    (acc.1 + 1, returnChain chain (loseEntry e.number s1))
  else acc

/-- The conversion of DISCARD: how many entries were converted, and the state after (R158). -/
def discardAll (s : State) : Nat × State := s.catalog.entries.foldl convertEntry (0, s)

/-- What START finds in transfer (R135), by the start alignment; nothing with the link DOWN. -/
def inTransferOf (linkUp : Bool) (align : StartAlign) (group : Option GroupInTransfer) : InTransfer :=
  match linkUp, align, group with
  | true, .frame, some g => .partialGroup g.arrived.val
  | true, .group, some _ => .discardGroup
  | _, _, _ => .nothing

/-- The session's first frame where START knows it (R112, R135): under FRAME with a group in transfer, the next frame of
that group to arrive. -/
def knownFirst (linkUp : Bool) (align : StartAlign) (group : Option GroupInTransfer) : Option Nat :=
  match linkUp, align, group with
  | true, .frame, some g => some (Config.frameIndex (g.first.toNat + g.arrived.val))
  | _, _, _ => none

/-- The intake takes its copies and enters ACCEPTING (R135). -/
def startIntake (c : ConfigRec) (group : Option GroupInTransfer) (k : Intake) : Intake :=
  { k with
    state := .accepting, items := [], setup := c.setup, frameSize := 2 * c.setup.length
    hiMark := c.hiMark, loMark := c.loMark, startAlign := c.startAlign, expected := none, newest := none
    firstFrame := knownFirst k.linkUp c.startAlign group, urgent := false
    inTransfer := inTransferOf k.linkUp c.startAlign group }

/-- The aligner takes its copies and enters ARMING or MARKING (R112). -/
def startAligner (c : ConfigRec) (first : Option Nat) : Aligner :=
  { Aligner.rest
      { mode := c.mode, pre := c.pre, post := c.post, holdoff := c.holdoff, rearm := c.rearm, early := c.early
        rawLatency := c.rawLatency, markMain := c.markMain, markAux := c.markAux } with
    firstFrame := first
    armingFrame := match c.mode with
      | .segmented => first
      | .continuous => none
    state := match c.mode with
      | .segmented => .arming
      | .continuous => .marking }

/-- The writer takes its copies and enters PRETRIGGER or RECORDING (R93). -/
def startWriter (c : ConfigRec) (first : Option Nat) : Writer :=
  { Writer.idle
      { mode := c.mode, layout := c.setup, frameSize := 2 * c.setup.length
        framesPerBlock := framesPerBlock (2 * c.setup.length), pre := c.pre, post := c.post, span := c.span
        retention := c.retention, archReq := c.archReq } with
    nextFrame := first
    state := match c.mode with
      | .segmented => .pretrigger
      | .continuous => .recording }

/-- Step 4 of R157. -/
def startBlocks (c : ConfigRec) (group : Option GroupInTransfer) (s : State) : State :=
  { s with
    mem := { s.mem with order := c.order }
    intake := startIntake c group s.intake
    aligner := startAligner c (knownFirst s.intake.linkUp c.startAlign group)
    writer := startWriter c (knownFirst s.intake.linkUp c.startAlign group) }

/-- An accepted START (R157). -/
def acceptStart (r : Passed) (c : ConfigRec) (discard : Bool) (group : Option GroupInTransfer) (s : State) : State :=
  let s1 := setSession (fun k => { k with state := .running, stopTaken := false, totals := Totals.zero }) s
  let s2 := { s1 with catalog := { s1.catalog with session := wrapToOne s1.catalog.session } }
  let (converted, s3) := if discard then discardAll s2 else (0, s2)
  let s4 := startBlocks c group s3
  captureEvent (answer r .ok 0 [⟨0, 4, s4.catalog.session.toNat⟩, ⟨4, 4, converted⟩] s4)

/-- START from a port (R156, R157). -/
def start (r : Passed) (generation : BitVec 32) (discard : Bool) (group : Option GroupInTransfer) (s : State) : State :=
  match startStatus generation s, s.session.config with
  | .ok, some c => acceptStart r c discard group s
  | .ok, none => answer r .notConfigured 0 [] s
  | st, _ => answer r st 0 [] s

/-- START (R157). -/
def execStart (p : Port) (group : Option GroupInTransfer) (s : State) : Host.Outcome State Fault Refusal :=
  .next
    (match takeSession p 0x21 s with
     | some (r, s1) =>
       match r.request with
       | .start generation discard => start r generation discard group s1
       | _ => s1
     | none => s)

/-! ## STOP (R106, R124, R160) -/

/-- The value of a session state (R190). -/
def SessionState.code : SessionState → Nat
  | .stopped => 0
  | .running => 1
  | .finishing => 2
  | .draining => 3

/-- A port joins the drain set (R160). -/
def joinDrain (p : Port) (s : State) : State :=
  setSession
    (fun k =>
      match p with
      | .p0 => { k with drain0 := true }
      | .p1 => { k with drain1 := true }) s

/-- The aligner at STOP (R124). -/
def alignerStop (s0 : State) : State :=
  let s := clearPending s0
  match s.aligner.state with
  | .capturing => setAligner (fun a => { a with disarmAfterSeal := true }) s
  | .marking => s
  | .arming =>
    if s.aligner.handOver.isSome then setAligner (fun a => { a with disarmAfterSeal := true }) s
    else enterDisarmed s
  | .armed =>
    if s.aligner.handOver.isSome then setAligner (fun a => { a with disarmAfterSeal := true }) s
    else enterDisarmed s
  | _ => enterDisarmed s

/-- The writer holds a segmented record that will complete (R106). -/
def Writer.willComplete (w : Writer) : Bool :=
  w.params.mode = .segmented &&
    (w.state = .recording || (w.state = .pretrigger && w.handed.isSome))

/-- The buffered frames up to the first cut are passed over (R106). -/
def passLeading (s : State) : State :=
  let n := (leadingFrames s.intake.items).length
  addTotals (fun t => { t with passedOver := sat t.passedOver n }) (setItems (s.intake.items.drop n) s)

/-- Withdraw the writer's burst asked and not granted (R141). -/
def withdrawWriter (s : State) : State := { s with mem := { s.mem with writerAsk := none } }

/-- The writer's action at a STOP with no segmented record to complete (R106, R107): a segmented writer makes no burst in
its stop work, and reports IDLE when it takes the STOP (R160). A STARVED writer's WRITER_RESUMED stands before the STOP's
completion (DESIGN CHOICE, log entry 21: R172 leaves either order). -/
def writerStop (s : State) : State :=
  match s.writer.state with
  | .passing => finishStop (passLeading s)
  | .starved => finishStop (leaveStarved s)
  | .recording => if s.mem.writerBurst.isNone && (leadingFrames s.intake.items).isEmpty then finishStop s else s
  | _ => finishStop s

/-- STOP taken in RUNNING with stop taken clear (R160). -/
def firstStop (s0 : State) : State :=
  let s := setWriter (fun w => { w with stopping := true }) (alignerStop s0)
  if s.writer.willComplete then setSession (fun k => { k with state := .finishing }) s
  else
    writerStop
      (setIntake (fun k => { k with state := .closed, inTransfer := .nothing })
        (setSession (fun k => { k with stopTaken := true }) s))

/-- The completion of STOP, before any DRAIN_DONE it leads to (R160). What the STOP itself has raised before stands before
it: WRITER_RESUMED (R100), the FAULT_LOGGED of a suspect block retired as its chain is released (R41) (DESIGN CHOICE, log
entry 21: R172 lets either come first). -/
def answerStop (r : Passed) (s : State) : State :=
  captureEvent
    (answer r .ok 0 [⟨0, 1, s.session.state.code⟩, ⟨1, 1, bit s.session.stopTaken 0⟩] s)

/-- STOP from a port (R160). -/
def stop (r : Passed) (s : State) : State :=
  match s.session.state with
  | .stopped => answer r .busy 0 [] s
  | .running =>
    if s.session.stopTaken then answerStop r (joinDrain r.port s) else answerStop r (firstStop (joinDrain r.port s))
  | _ => answerStop r (joinDrain r.port s)

/-- STOP (R160). -/
def execStop (p : Port) (s : State) : Host.Outcome State Fault Refusal :=
  .next
    (match takeSession p 0x22 s with
     | some (r, s1) => stop r s1
     | none => s)

/-! ## ABORT (R108, R124, R137, R164) -/

/-- The frames of the buffer that a granted writer burst still holds. -/
def MemService.grantedCount (m : MemService) : Nat :=
  match m.busy with
  | some (.writer b) => b.count
  | _ => 0

/-- The intake at ABORT (R137). The frames it drops add nothing to the episode drops of a STARVED writer (DESIGN CHOICE, log
entry 56). -/
def intakeAbort (s : State) : State :=
  let kept := s.intake.items.take s.mem.grantedCount
  let s1 := countAbortDrops (frameCount s.intake.items - frameCount kept) s
  setIntake (fun k => { k with state := .idle, items := kept, urgent := false, inTransfer := .nothing }) s1

/-- The aligner at ABORT (R124): it enters DISARMED at once, and takes the condition of R111 only when the session reaches
STOPPED. -/
def alignerAbort (s : State) : State :=
  enterDisarmed
    (setAligner (fun a => { a with capture := none })
      (clearMarks .ignored (clearHandOver .ignored (clearPending s))))

/-- ABORT taken in RUNNING or FINISHING (R164). A STARVED writer's WRITER_RESUMED carries the episode drops without the
frames that this ABORT drops, stands before what the release of the chain raises, and does not wait for a granted burst (R99,
R108; DESIGN CHOICE, log entry 56). -/
def abortSession (s : State) : State :=
  let s1 :=
    setWriter
      (fun w => { w with aborting := true, handed := none, gapFollowUp := false, changes := [] })
      (leaveStarved (withdrawWriter (alignerAbort (intakeAbort s))))
  if s1.mem.writerBurst.isSome then s1 else finishAbort s1

/-- ABORT from a port (R164). -/
def abort (r : Passed) (s : State) : State :=
  match s.session.state with
  | .stopped => answer r .busy 0 [] s
  | .draining =>
    answer r .ok 0 [] (sendDrainDone (enterStopped { unbound := false, aborted := true } s))
  | _ => captureEvent (abortSession (setSession (fun k => { k with inProgress := some (.abort r) }) s))

/-- ABORT (R164). -/
def execAbort (p : Port) (s : State) : Host.Outcome State Fault Refusal :=
  .next
    (match takeSession p 0x23 s with
     | some (r, s1) => abort r s1
     | none => s)

/-! ## RESET_PART (R43, R90, R165, R166) -/

/-- The checks of RESET_PART in their order (R165). -/
def resetStatus (p : Port) (s : State) : Status :=
  if s.session.state ≠ .stopped then .busy
  else if s.bank0.active || s.bank1.active then .held
  else if s.engine.bound = some p.other then .boundElsewhere
  else .ok

/-- The suspect blocks of chains, in increasing index (R43). -/
def BlockMap.suspects (m : BlockMap) : List Nat :=
  (natsFrom 0 Config.blockCount).filter
    (fun b => (m.get b).suspect && ((m.get b).state = .filling || (m.get b).state = .stored))

/-- The rebuilding of the free list (R43). -/
def BlockMap.rebuild (m : BlockMap) : BlockMap :=
  { table := m.table.map (fun k => if k.state = .faulty then k else Block.fresh)
    free := (natsFrom 0 Config.blockCount).filter (fun b => (m.get b).state ≠ .faulty)
    faulty := m.faulty, last := none }

/-- Step 2 of R166: the catalog, the counter groups and the block map. -/
def resetCatalog (s : State) : State :=
  let s1 :=
    { s with
      catalog := { Catalog.reset with epoch := s.catalog.epoch + 1 }
      counters := Counters.zero
      session := { s.session with totals := Totals.zero } }
  let s2 := s1.blocks.suspects.foldl (fun s b => retireBlock b s) s1
  { s2 with blocks := s2.blocks.rebuild }

/-- An UNBIND_ARCHIVE that a part reset has met is answered with the buffers it abandons (R87, R170; log entry 46). -/
def answerUnbinding (s : State) : State :=
  match s.engine.ending.bind Ending.unbinding with
  | some r => answer r .ok 0 [⟨0, 1, s.engine.buffers.length⟩] s
  | none => s

/-- Steps 3 to 5 of R166 once the engine's wait is over: the engine's power-on fields, PART_RESET, the completion. -/
def finishReset (s : State) : State :=
  let s1 := engineReset (answerUnbinding s)
  match s1.session.inProgress with
  | some (.resetPart r) =>
    answer r .ok 0 []
      (notify r.port.other .partReset [] (setSession (fun k => { k with inProgress := none }) s1))
  | _ => s1

/-- The bound engine has answers to its writes, or a granted burst, to wait for (R90, R151; DEDUCED, log entry 38). -/
def State.engineWaits (s : State) : Bool :=
  !s.engine.issued.isEmpty || (s.engine.bound.isSome && s.mem.archiveGranted)

/-- RESET_PART from a port (R165, R166). -/
def resetPart (r : Passed) (s : State) : State :=
  match resetStatus r.port s with
  | .ok =>
    let s1 :=
      resetCatalog (rewind false (setSession (fun k => { k with inProgress := some (.resetPart r) }) s))
    if s1.engineWaits then
      setEngine
        (fun g => { g with ending := some (.partReset (g.ending.bind Ending.unbinding)), errorNotice := none }) s1
    else finishReset s1
  | st => answer r st 0 [] s

/-- RESET_PART (R166). -/
def execResetPart (p : Port) (s : State) : Host.Outcome State Fault Refusal :=
  .next
    (match takeSession p 0x24 s with
     | some (r, s1) => resetPart r s1
     | none => s)

/-! ## Answers to the engine's writes, and its bursts -/

/-- The end of an unbinding once no issued write is unanswered (R87), or of a part reset once nothing is waited for (R90,
R151). -/
def endWait (s : State) : State :=
  match s.engine.ending with
  | some (.unbind r) => if s.engine.issued.isEmpty then arbitrate (finishUnbind r s) else s
  | some (.partReset _) => if s.engineWaits then s else finishReset s
  | none => s

/-- The engine takes a completed burst, after the arbiter's next grant (R141: its next burst is asked later; DESIGN CHOICE, log
entry 9): the data joins the transfer and its damage is noted (R10, R80), or it is discarded. The engine then runs, or,
while it ends its binding, places nothing more, and a part reset that waited for the burst ends (DEDUCED, log entry
38). -/
def archiveBurstDone (discard : Bool) (r : ReadResult) (s0 : State) : State :=
  let s1 := readEffects r (arbitrate (releaseGrant s0))
  let s2 := if discard then s1 else takeArchiveData r s1
  if s2.engine.ending.isSome then endWait s2 else engineEvent s2

/-- ARCHIVE_BURST_DONE (R79, R80). -/
def execArchiveBurstDone (strikes : List Strike) (s : State) : Host.Outcome State Fault Refusal :=
  match s.mem.busy with
  | some (.archive b discard) =>
    if inCapture b.addr b.len then
      let s1 := strikeAll strikes s
      .next (archiveBurstDone discard (s1.mem.readBurst b.addr b.len) s1)
    else .fault .outsideCaptureMemory
  | _ => .next s

/-- ARCHIVE_WRITE_ACK (R81). An answer in FAULTED, or while the engine ends its binding, is not acted upon (R87,
R89). -/
def execArchiveWriteAck (n : Nat) (s : State) : Host.Outcome State Fault Refusal :=
  .next
    (match s.engine.issued[n]? with
     | none => s
     | some w =>
       let s1 := answerWrite n s
       if s.engine.ending.isSome then endWait s1
       else if s.engine.state = .faulted then endFaultWait s1
       else ackWrite w s1)

/-- LINK_WRITE_ERROR (R89). -/
def execLinkWriteError (n : Nat) (s : State) : Host.Outcome State Fault Refusal :=
  .next
    (match s.engine.issued[n]? with
     | none => s
     | some w =>
       let s1 := answerWrite n s
       if s.engine.ending.isSome then endWait s1
       else if s.engine.state = .faulted then endFaultWait s1
       else endFaultWait (faultEngine w s1))

end Sys2Proof.Machine
end

