-- ==== Sys2Proof/Machine/Ports.lean ====
section
/-! DEFINITION. The port units (10_ports_queues_and_notices.md): the taking of requests, the control window (R169, R187),
interrupt errors and port reset; and POWER_ON. -/

namespace Sys2Proof.Machine

/-! ## REQUEST_TAKE (R170, R171) -/

/-- The three conditions of R170. -/
def PortUnit.canTake (u : PortUnit) : Bool :=
  decide (u.reqHead ≠ u.reqTail) && decide (8 < u.free) && u.inHand.isNone && u.held.isNone

/-- A request the port unit refuses itself (R171). Its payload is all zero for ARM and DISARM too, which no block receives:
R190 excepts their refusals without saying which (DESIGN CHOICE, log entry 50). -/
def refuseEntry (p : Port) (entry : List Byte) (st : Status) (detail : Nat) (k : FaultKind) (faultDetail : Nat)
    (s : State) : State :=
  writeCompletion p
    { code := fieldAt entry 0 1, tag := BitVec.ofNat 16 (fieldAt entry 2 2), status := st.code, detail := detail
      payload := [], generation := none }
    (logFault (portFault p) k faultDetail s)

/-- The entry at the request head is taken and checked (R170, R171). -/
def takeRequest (p : Port) (s : State) : State :=
  let u := s.port p
  let entry := u.reqSlots.get u.reqHead
  let s1 :=
    countPort p (fun c => { c with requestsTaken := sat c.requestsTaken 1 })
      (modifyPort p (fun u => { u with reqHead := u.reqHead + 1 }) s)
  match checkEntry entry with
  | .unknown => refuseEntry p entry .unknownRequest 0 .unknownRequest (fieldAt entry 0 1) s1
  | .malformed off => refuseEntry p entry .malformed off .malformed off s1
  | .request q =>
    let tag := BitVec.ofNat 16 (fieldAt entry 2 2)
    let s2 := modifyPort p (fun u => { u with inHand := some { code := fieldAt entry 0 1, tag := tag } }) s1
    { s2 with passed := s2.passed ++ [{ port := p, tag := tag, request := q, live := true }] }

/-- REQUEST_TAKE (R170). -/
def execRequestTake (p : Port) (s : State) : Host.Outcome State Fault Refusal :=
  .next (if (s.port p).canTake then takeRequest p s else s)

/-! ## Slots that become free (R172, R173) -/

/-- The held completion is written. -/
def releaseHeld (p : Port) (s : State) : State :=
  match (s.port p).held with
  | some c =>
    if 0 < (s.port p).free then
      enqueue p (completionSlot c s) (modifyPort p (fun u => { u with held := none }) s)
    else s
  | none => s

/-- The entries that wait for a slot are written in the order of R172, and what the writing of a BUFFER_FILLED leads to
follows (log entry 21). -/
def slotsFreed (p : Port) (s0 : State) : State :=
  let s := releaseHeld p s0
  if s.engine.bound = some p && decide (0 < (s.port p).free) && s.engine.ending.isNone then
    if s.engine.state = .waitSlot then
      sendDrainDone (afterFilled (reportMissed p (writeFilled s)))
    else
      match s.engine.errorNotice with
      | some n => afterErrorFilled (reportMissed p (writeErrorFilled n s))
      | none => reportMissed p s
  else reportMissed p s

/-! ## Registers (R169) -/

/-- A control-window write violation (R169). -/
def controlViolation (p : Port) (off : Nat) (s : State) : State :=
  logFault (portFault p) .controlWrite off
    (countPort p (fun c => { c with writeViolations := sat c.writeViolations 1 })
      (modifyPort p (fun u => { u with writeViolation := true }) s))

/-- A message is issued when the queue holds entries (R174). -/
def interruptIfEntries (p : Port) (s : State) : State := if 0 < (s.port p).entries then interrupt p s else s

/-- A write of the request tail; the flag says whether it is a violation. -/
def writeRequestTail (p : Port) (v : Nat) (s : State) : Bool × State :=
  if h : v < 32 then (false, modifyPort p (fun u => { u with reqTail := ⟨v, h⟩ }) s) else (true, s)

/-- The head would move past the tail (R169). -/
def PortUnit.pastTail (u : PortUnit) (v : Fin 64) : Bool := decide (u.entries < (v - u.cplHead).val)

/-- A write of the completion head (R169, R172, R174): it clears interrupt outstanding whatever the value; a legal value
moves the head and lets waiting entries take the freed slots. -/
def writeCompletionHead (p : Port) (v : Nat) (s0 : State) : Bool × State :=
  let s := modifyPort p (fun u => { u with irqOutstanding := false }) s0
  if h : v < 64 then
    if (s.port p).pastTail ⟨v, h⟩ then (true, interruptIfEntries p s)
    else (false, interruptIfEntries p (slotsFreed p (modifyPort p (fun u => { u with cplHead := ⟨v, h⟩ }) s)))
  else (true, interruptIfEntries p s)

/-- A write of the port control (R169, R174, R187). -/
def writePortControl (p : Port) (v : Nat) (s0 : State) : State :=
  let s :=
    modifyPort p
      (fun u =>
        { u with
          irqEnable := natBit v 0, writeErrorEnable := natBit v 1, conflictErrorEnable := natBit v 2 }) s0
  if natBit v 0 then interruptIfEntries p s else s

/-- A write of the port status: each flag with a one is cleared (R169, R187). -/
def writePortStatus (p : Port) (v : Nat) (s : State) : State :=
  modifyPort p
    (fun u =>
      { u with
        unmappedRead := u.unmappedRead && !natBit v 0
        writeViolation := u.writeViolation && !natBit v 1
        decodeConflict := u.decodeConflict && !natBit v 2
        readTimeout := u.readTimeout && !natBit v 3
        noticesMissed := u.noticesMissed && !natBit v 4 }) s

/-- The engine and the arbiter run after a write that may have freed a slot, and the write is acknowledged. -/
def ackControl (p : Port) (off : Nat) (s : State) : State := emit p (.controlAck off) (engineEvent s)

/-- The end of a write, taken as a violation when `r.1` says so: after the registers have been acted on and the entries that
waited for a slot written, so a write that clears the write-violation flag and is a violation leaves it set (DESIGN CHOICE,
log entry 48: R169 does not order them). -/
def finishWrite (p : Port) (off : Nat) (r : Bool × State) : State :=
  ackControl p off (if r.1 then controlViolation p off r.2 else r.2)

/-- REQUEST_TAIL_WRITE (R169). -/
def execRequestTailWrite (p : Port) (v : BitVec 32) (s : State) : Host.Outcome State Fault Refusal :=
  .next (finishWrite p 0x0000 (writeRequestTail p v.toNat s))

/-- COMPLETION_HEAD_WRITE (R169). -/
def execCompletionHeadWrite (p : Port) (v : BitVec 32) (s : State) : Host.Outcome State Fault Refusal :=
  .next (finishWrite p 0x0008 (writeCompletionHead p v.toNat s))

/-- PORT_CONTROL_WRITE (R169). -/
def execPortControlWrite (p : Port) (v : BitVec 32) (s : State) : Host.Outcome State Fault Refusal :=
  .next (finishWrite p 0x0010 (false, writePortControl p v.toNat s))

/-- PORT_STATUS_WRITE (R169). -/
def execPortStatusWrite (p : Port) (v : BitVec 32) (s : State) : Host.Outcome State Fault Refusal :=
  .next (finishWrite p 0x0014 (false, writePortStatus p v.toNat s))

/-! ## The control window (R169, R187) -/

/-- The registers of the control window with their offsets and sizes, in increasing offset (R187). -/
def controlRegisters : List (Nat × Nat) :=
  [(0x0000, 4), (0x0004, 4), (0x0008, 4), (0x000C, 4), (0x0010, 4), (0x0014, 4), (0x0018, 4), (0x0020, 8)]

/-- A write that covers a register whole acts on it (R169). -/
def writeRegister (p : Port) (off v : Nat) (s : State) : Bool × State :=
  match off with
  | 0x0000 => writeRequestTail p v s
  | 0x0008 => writeCompletionHead p v s
  | 0x0010 => (false, writePortControl p v s)
  | 0x0014 => (false, writePortStatus p v s)
  | 0x0018 => (false, modifyPort p (fun u => { u with irqData := BitVec.ofNat 32 v }) s)
  | 0x0020 => (false, modifyPort p (fun u => { u with irqAddr := BitVec.ofNat 64 v }) s)
  | _ => (true, s)

/-- One register of a write (R169): whole, in part, or not touched. -/
def writeOverlap (p : Port) (off : Nat) (bytes : List Byte) (acc : Bool × State) (r : Nat × Nat) : Bool × State :=
  if r.1 + r.2 ≤ off ∨ off + bytes.length ≤ r.1 then acc
  else if off ≤ r.1 ∧ r.1 + r.2 ≤ off + bytes.length then
    let res := writeRegister p r.1 (fieldAt bytes (r.1 - off) r.2) acc.2
    (acc.1 || res.1, res.2)
  else (true, acc.2)

/-- A byte of the request queue slots (R169, R187). -/
def inRequestSlots (o : Nat) : Bool := decide (0x1000 ≤ o) && decide (o < 0x1800)

/-- An offset that is no register and no request slot byte: a completion slot byte, or one that holds nothing. -/
def deadOffset (o : Nat) : Bool :=
  !inRequestSlots o && !controlRegisters.any (fun r => decide (r.1 ≤ o) && decide (o < r.1 + r.2))

/-- A byte of the request queue slots is written. -/
def PortUnit.writeSlotByte (u : PortUnit) (o : Nat) (v : Byte) : PortUnit :=
  let i : Fin 32 := Fin.ofNat 32 ((o - 0x1000) / 64)
  { u with reqSlots := u.reqSlots.set i.val ((u.reqSlots.get i).set ((o - 0x1000) % 64) v) i.isLt }

/-- The bytes of a write that fall in the request queue slots. -/
def writeSlots (p : Port) (off : Nat) (bytes : List Byte) (s : State) : State :=
  ((natsFrom off bytes.length).zip bytes).foldl
    (fun s b => if inRequestSlots b.1 then modifyPort p (fun u => u.writeSlotByte b.1 b.2) s else s) s

/-- A control-window write (R169): register by register in increasing offset, then the slot bytes; one violation when
any case applies. -/
def writeControl (p : Port) (off : Nat) (bytes : List Byte) (s : State) : Bool × State :=
  let r := controlRegisters.foldl (writeOverlap p off bytes) (false, s)
  (r.1 || (natsFrom off bytes.length).any deadOffset, writeSlots p off bytes r.2)

/-- CONTROL_WINDOW_WRITE (R169, R187). -/
def execControlWindowWrite (p : Port) (off : Nat) (bytes : List Byte) (s : State) :
    Host.Outcome State Fault Refusal :=
  if linkLength bytes.length then .next (finishWrite p off (writeControl p off bytes s)) else .refused .illFormed

/-- The port control as it reads (R187). -/
def PortUnit.controlValue (u : PortUnit) : Nat :=
  bit u.irqEnable 0 + bit u.writeErrorEnable 1 + bit u.conflictErrorEnable 2

/-- The port status as it reads (R187). -/
def PortUnit.statusValue (u : PortUnit) : Nat :=
  bit u.unmappedRead 0 + bit u.writeViolation 1 + bit u.decodeConflict 2 + bit u.readTimeout 3 +
    bit u.noticesMissed 4

/-- The registers of the control window as they read (R187). -/
def PortUnit.registers (u : PortUnit) : List Field :=
  [⟨0x0000, 4, u.reqTail.val⟩, ⟨0x0004, 4, u.reqHead.val⟩, ⟨0x0008, 4, u.cplHead.val⟩, ⟨0x000C, 4, u.cplTail.val⟩,
   ⟨0x0010, 4, u.controlValue⟩, ⟨0x0014, 4, u.statusValue⟩, ⟨0x0018, 4, u.irqData.toNat⟩,
   ⟨0x0020, 8, u.irqAddr.toNat⟩]

/-- A byte of the control window as a read gives it (R168, R187): registers, slot bytes, or zero. -/
def PortUnit.controlByte (u : PortUnit) (o : Nat) : Byte :=
  if inRequestSlots o then (u.reqSlots.get (Fin.ofNat 32 ((o - 0x1000) / 64))).getD ((o - 0x1000) % 64) 0
  else if 0x2000 ≤ o ∧ o < 0x4000 then
    (u.cplSlots.get (Fin.ofNat 64 ((o - 0x2000) / 128))).getD ((o - 0x2000) % 128) 0
  else layoutByte u.registers o

/-- A control-window read of `n` bytes: it changes nothing (R168). -/
def readControl (p : Port) (off n : Nat) (s : State) : List Byte := (natsFrom off n).map (s.port p).controlByte

/-! ## Interrupt errors (R174) -/

/-- INTERRUPT_WRITE_ERROR (R174): for a message issued and not yet answered. The detail is the interrupt address as it then
stands (DESIGN CHOICE, log entry 47: R174 does not say whether it is that of the message). -/
def execInterruptWriteError (p : Port) (s : State) : Host.Outcome State Fault Refusal :=
  .next
    (if 0 < (s.port p).messages then
      logFault (portFault p) .interruptWriteError (s.port p).irqAddr.toNat
        (modifyPort p (fun u => { u with messages := u.messages - 1 }) s)
    else s)

/-! ## PORT_RESET (R67, R88, R176, R177) -/

/-- The port unit after a port reset (R176). -/
def PortUnit.afterReset (u : PortUnit) : PortUnit :=
  { u with
    reqHead := 0, reqTail := 0, cplHead := 0, cplTail := 0, inHand := none, held := none, missed := []
    irqOutstanding := false, unmappedRead := false, writeViolation := false, decodeConflict := false
    readTimeout := false, noticesMissed := false, irqEnable := false, writeErrorEnable := false
    conflictErrorEnable := false, messages := 0 }

/-- A passed request of the reset port loses its completion (R177). -/
def Passed.disown (p : Port) (r : Passed) : Passed := if r.port = p then { r with live := false } else r

/-- The requests of the port that owning blocks hold lose their completions (R177). -/
def disownRequests (p : Port) (s : State) : State :=
  { s with
    passed := s.passed.map (Passed.disown p)
    session :=
      { s.session with
        inProgress :=
          s.session.inProgress.map
            (fun k =>
              match k with
              | .abort r => .abort (r.disown p)
              | .resetPart r => .resetPart (r.disown p)) } }

/-- One slot is released by a port reset (R67). -/
def resetSlot (p : Port) (s : State) (i : Fin 16) : State :=
  match (s.bank p).hold i with
  | none => s
  | some _ => countHolds (fun c => { c with released := sat c.released 1 }) (freeHold p i s)

/-- The hold table at a port reset (R67): holds released with no notice, reads in flight abandoned. -/
def resetHolds (p : Port) (s : State) : State :=
  let s1 := modifyBank p (fun b => { b with reads := [] }) (slots16.foldl (resetSlot p) s)
  { s1 with mem := s1.mem.setWindowAsk p [] }

/-- Port p leaves the drain set (R163). -/
def leaveDrain (p : Port) (s : State) : State :=
  setSession
    (fun k =>
      match p with
      | .p0 => { k with drain0 := false }
      | .p1 => { k with drain1 := false }) s

/-- The engine at a port reset (R88, R90). A part reset's wait ends, and an UNBIND_ARCHIVE met by it loses its completion
(R177). -/
def resetBinding (p : Port) (s : State) : State :=
  if s.engine.bound = some p then
    match s.engine.ending with
    | some (.partReset _) => finishReset (setEngine (fun g => { g with ending := none }) s)
    | _ => unbind (rewind true s)
  else s

/-- PORT_RESET (R176, R177). The queues are emptied first, so the FAULT_LOGGED of a failed write that waits to be logged (R89)
stands in the port's emptied queue (DESIGN CHOICE, log entry 12: R176 and R177 do not order the two). -/
def execPortReset (p : Port) (s : State) : Host.Outcome State Fault Refusal :=
  .next
    (engineEvent
      (resetBinding p (leaveDrain p (resetHolds p (disownRequests p (modifyPort p PortUnit.afterReset s))))))

/-! ## POWER_ON -/

/-- POWER_ON (R4, R29, R44, R69, R91, R111, R138, R151, R152, R167, R178, R182): every block's power-on state. The
commands that wait, and the model's count of free values, are not the part's and stay. -/
def execPowerOn (s : State) : Host.Outcome State Fault Refusal :=
  .next { State.reset with pending := s.pending, freeCount := s.freeCount }

end Sys2Proof.Machine
end

