-- ==== Sys2Proof/Machine/Timers.lean ====
section
/-! DEFINITION. The part's own timers (R52, R65, R84, R144): what a tenth of a microsecond does (log entry 3). -/

namespace Sys2Proof.Machine

/-- The refresh timer (R144): 39 tenths of a microsecond. -/
def tickRefresh (s : State) : State :=
  if s.mem.cal = .ready then
    if Config.refreshTicks ≤ s.mem.refreshPhase + 1 then refreshComesDue s
    else { s with mem := { s.mem with refreshPhase := s.mem.refreshPhase + 1 } }
  else s

/-- The timer of one hold (R52). -/
def tickHold (p : Port) (s : State) (i : Fin 16) : State :=
  match (s.bank p).hold i with
  | none => s
  | some h =>
    if h.interval = 0 then s
    else if h.ticks + 1 < Config.ticksPerMillisecond then
      modifyBank p (fun b => b.setSlot i (some { h with ticks := h.ticks + 1 })) s
    else if h.remaining ≤ 1 then expireHold p i s
    else modifyBank p (fun b => b.setSlot i (some { h with ticks := 0, remaining := h.remaining - 1 })) s

/-- The timers of a port's holds, slots ascending (DESIGN CHOICE, log entry 3: R52 orders no two expiries). -/
def tickHolds (p : Port) (s : State) : State := slots16.foldl (tickHold p) s

/-- The timers of a port's window reads (R65): those that end time their reads out, the oldest read first (DESIGN CHOICE, log
entry 3: R63 keeps no order among reads). -/
def tickReads (p : Port) (s : State) : State :=
  let s1 := modifyBank p (fun b => { b with reads := b.reads.map (fun r => { r with age := r.age + 1 }) }) s
  ((s1.bank p).reads.filter (fun r => decide (Config.readTimeoutTicks ≤ r.age))).foldl
    (fun s r => timeoutRead p r s) s1

/-- The flush timer (R84). -/
def tickFlush (s : State) : State :=
  match s.engine.flush with
  | none => s
  | some t =>
    if t.ticks + 1 < Config.ticksPerMicrosecond then
      setEngine (fun g => { g with flush := some { t with ticks := t.ticks + 1 } }) s
    else if t.remaining ≤ 1 then expireFlush s
    else setEngine (fun g => { g with flush := some { remaining := t.remaining - 1, ticks := 0 } }) s

/-- A tenth of a microsecond passes. -/
def tick (s : State) : State :=
  arbitrate
    (tickFlush (tickReads .p1 (tickReads .p0 (tickHolds .p1 (tickHolds .p0 (tickRefresh s))))))

end Sys2Proof.Machine
end

