-- ==== Sys2Proof/Machine/Dispatch.lean ====
section
/-! DEFINITION. The dispatch of a command to its meaning: one arm per constructor of Instr. -/

namespace Sys2Proof.Machine

def exec (i : Instr) (s : State) : Host.Outcome State Fault Refusal :=
  match i with
  | .powerOn => Sys2Proof.Machine.execPowerOn s
  | .calibrationSuccess => Sys2Proof.Machine.execCalibrationSuccess s
  | .calibrationFailure => Sys2Proof.Machine.execCalibrationFailure s
  | .refreshDue => Sys2Proof.Machine.execRefreshDue s
  | .refreshDone => Sys2Proof.Machine.execRefreshDone s
  | .frameGroup first frames => Sys2Proof.Machine.execFrameGroup first frames s
  | .linkDown => Sys2Proof.Machine.execLinkDown s
  | .linkUp => Sys2Proof.Machine.execLinkUp s
  | .triggerMessage m => Sys2Proof.Machine.execTriggerMessage m s
  | .writerTakeItem => Sys2Proof.Machine.execWriterTakeItem s
  | .writerBurstDone strikes => Sys2Proof.Machine.execWriterBurstDone strikes s
  | .waitingRequestOffer => Sys2Proof.Machine.execWaitingRequestOffer s
  | .entryStart => Sys2Proof.Machine.execEntryStart s
  | .archiveBurstDone strikes => Sys2Proof.Machine.execArchiveBurstDone strikes s
  | .archiveWriteAck n => Sys2Proof.Machine.execArchiveWriteAck n s
  | .linkWriteError n => Sys2Proof.Machine.execLinkWriteError n s
  | .flushTimerExpiry => Sys2Proof.Machine.execFlushTimerExpiry s
  | .windowRead p addr len => Sys2Proof.Machine.execWindowRead p addr len s
  | .windowReadBurstDone strikes => Sys2Proof.Machine.execWindowReadBurstDone strikes s
  | .readTimeout p n => Sys2Proof.Machine.execReadTimeout p n s
  | .apertureWrite p addr bytes => Sys2Proof.Machine.execApertureWrite p addr bytes s
  | .holdExpiry p slot => Sys2Proof.Machine.execHoldExpiry p slot s
  | .requestTake p => Sys2Proof.Machine.execRequestTake p s
  | .requestTailWrite p value => Sys2Proof.Machine.execRequestTailWrite p value s
  | .completionHeadWrite p value => Sys2Proof.Machine.execCompletionHeadWrite p value s
  | .portControlWrite p value => Sys2Proof.Machine.execPortControlWrite p value s
  | .portStatusWrite p value => Sys2Proof.Machine.execPortStatusWrite p value s
  | .controlWindowWrite p off bytes => Sys2Proof.Machine.execControlWindowWrite p off bytes s
  | .interruptWriteError p => Sys2Proof.Machine.execInterruptWriteError p s
  | .portReset p => Sys2Proof.Machine.execPortReset p s
  | .describe p => Sys2Proof.Machine.execDescribe p s
  | .querySpan p => Sys2Proof.Machine.execQuerySpan p s
  | .queryRecord p => Sys2Proof.Machine.execQueryRecord p s
  | .queryMarks p => Sys2Proof.Machine.execQueryMarks p s
  | .placeHold p => Sys2Proof.Machine.execPlaceHold p s
  | .renewHold p => Sys2Proof.Machine.execRenewHold p s
  | .releaseHold p => Sys2Proof.Machine.execReleaseHold p s
  | .queryHolds p => Sys2Proof.Machine.execQueryHolds p s
  | .bindArchive p => Sys2Proof.Machine.execBindArchive p s
  | .unbindArchive p => Sys2Proof.Machine.execUnbindArchive p s
  | .supplyBuffer p => Sys2Proof.Machine.execSupplyBuffer p s
  | .arm p => Sys2Proof.Machine.execArm p s
  | .disarm p => Sys2Proof.Machine.execDisarm p s
  | .forceTrigger p => Sys2Proof.Machine.execForceTrigger p s
  | .configure p => Sys2Proof.Machine.execConfigure p s
  | .start p group => Sys2Proof.Machine.execStart p group s
  | .stop p => Sys2Proof.Machine.execStop p s
  | .abort p => Sys2Proof.Machine.execAbort p s
  | .resetPart p => Sys2Proof.Machine.execResetPart p s
  | .readCounters p => Sys2Proof.Machine.execReadCounters p s
  | .readFaults p => Sys2Proof.Machine.execReadFaults p s
  | .clearFaults p => Sys2Proof.Machine.execClearFaults p s
  | .setFaultEnable p => Sys2Proof.Machine.execSetFaultEnable p s

end Sys2Proof.Machine
end

