-- ==== Sys2Proof/Safety.lean ====
section
/-! DEFINITION. The words the statements are made of: what the completion queue keeps, what an answer leaves, which
parts of the state the shared operations leave alone, and the invariants. -/

namespace Sys2Proof.Machine

/-! ## Invariants -/

/-- The catalog's numbers (R1, R2): its entries are numbered consecutively, the tail's number is one less than the next
record number, and the catalog holds at most 4096 entries. -/
structure Catalog.Numbered (c : Catalog) : Prop where
  consecutive : c.entries.map (fun e => e.number) = natsFrom (c.next - c.entries.length) c.entries.length
  fromOne : c.entries.length < c.next
  places : c.entries.length ≤ 4096
  numbers : c.next ≤ 4294967295

/-- Capture memory is in its canonical form. -/
def State.memoryCanonical (s : State) : Prop := Memory.wf s.mem.cells = true

/-- The refresh debt records at most 9 refreshes (R144). -/
def State.debtBounded (s : State) : Prop := s.mem.debt ≤ 9

/-! ## The completion queue -/

/-- The k-th entry of the completion queue, the oldest first (R167). -/
def PortUnit.queued (u : PortUnit) (k : Nat) : List Byte := u.cplSlots.get (u.cplHead + Fin.ofNat 64 k)

/-- Every entry of the completion queue of `u` stands at its place in that of `v` (R167). -/
structure QueueKept (u v : PortUnit) : Prop where
  head : v.cplHead = u.cplHead
  more : u.entries ≤ v.entries
  same : ∀ k, k < u.entries → v.queued k = u.queued k

/-- An entry with these bytes has joined the completion queue of `u`, giving that of `v`. -/
def Posted (u v : PortUnit) (slot : List Byte) : Prop :=
  ∃ k, u.entries ≤ k ∧ k < v.entries ∧ v.queued k = slot

/-- A port unit without what the writing of completion queue entries, notices, interrupt messages and link output
changes. -/
def PortUnit.apartFromNotices (u : PortUnit) : PortUnit :=
  { u with
    cplSlots := PortUnit.reset.cplSlots, cplTail := 0, noticesMissed := false, missed := [], irqOutstanding := false
    messages := 0, link := [] }

/-- Nothing but entries, notices, interrupt messages and link output has been added to a port unit. -/
structure PortKept (u v : PortUnit) : Prop where
  rest : v.apartFromNotices = u.apartFromNotices
  queue : QueueKept u v

/-! ## Answers to requests -/

/-- Request `r` has been answered at once by completion `c`, with nothing else written to its port: the request in hand is
none; with a slot free the completion stands at the old completion tail, which has advanced by one, and with none it is
held (R170, R172). The rest of the port unit is as it was, but for the interrupt message of R174. -/
structure RepliedBy (s t : State) (r : Passed) (c : Completion) : Prop where
  noneInHand : (t.port r.port).inHand = none
  written :
    0 < (s.port r.port).free →
      (t.port r.port).cplSlots =
          (s.port r.port).cplSlots.set (s.port r.port).cplTail.val (completionSlot c t)
            (s.port r.port).cplTail.isLt ∧
        (t.port r.port).cplTail = (s.port r.port).cplTail + 1 ∧ (t.port r.port).held = (s.port r.port).held
  heldBack :
    (s.port r.port).free = 0 →
      (t.port r.port).held = some c ∧
        (t.port r.port).cplSlots = (s.port r.port).cplSlots ∧ (t.port r.port).cplTail = (s.port r.port).cplTail
  others :
    t.port r.port =
      { s.port r.port with
        cplSlots := (t.port r.port).cplSlots, cplTail := (t.port r.port).cplTail, held := (t.port r.port).held
        inHand := none, irqOutstanding := (t.port r.port).irqOutstanding, messages := (t.port r.port).messages
        link := (t.port r.port).link }
  otherPort : t.port r.port.other = s.port r.port.other

/-- Request `r` has been answered at once, with this status, detail and payload. -/
abbrev Replied (s t : State) (r : Passed) (status : Status) (detail : Nat) (payload : List Field) : Prop :=
  RepliedBy s t r (r.completion status detail payload)

/-- Request `r` has been answered in the course of a step that may also send notices: the request in hand is none, and
the completion has joined the completion queue, or is held (R170, R172). -/
def Answered (s t : State) (r : Passed) (status : Status) (detail : Nat) (payload : List Field) : Prop :=
  (t.port r.port).inHand = none ∧
    (Posted (s.port r.port) (t.port r.port) (completionSlot (r.completion status detail payload) t) ∨
      (t.port r.port).held = some (r.completion status detail payload))

/-- `r` is the oldest request of port p with this code that no owning block has taken, and no port reset has discarded
it (R170, R177). -/
structure Waits (s : State) (p : Port) (code : Nat) (r : Passed) : Prop where
  oldest : s.passed.find? (Passed.is p code) = some r
  live : r.live = true

/-- The state without the oldest such request. -/
def State.without (s : State) (p : Port) (code : Nat) : State :=
  { s with passed := s.passed.eraseP (Passed.is p code) }

/-! ## What the shared operations leave alone

Each function below gives a state with what its operations may change set aside. Two states with equal images agree on
everything else. -/

/-- Without what notices, completions, fault reports and link output change: the two port units (for which see
`PortKept`), the counts of notices missed and the fault records. -/
def State.apartFromNotices (s : State) : State :=
  { s with
    port0 := PortUnit.reset, port1 := PortUnit.reset
    counters :=
      { s.counters with
        port0 := { s.counters.port0 with noticesMissed := 0 }, port1 := { s.counters.port1 with noticesMissed := 0 } }
    faults := { s.faults with records := Faults.reset.records } }

/-- Also without what changes of catalog entries, and the offers they lead to, change. -/
def State.apartFromEntries (s0 : State) : State :=
  let s := s0.apartFromNotices
  { s with
    catalog := { s.catalog with entries := [] }
    writer := { s.writer with offered := false }
    counters :=
      { s.counters with catalog := { s.counters.catalog with lost := 0, retired := 0, headRemovals := 0 } } }

/-- Also without what reclaim and the freeing of holds and blocks change. -/
def State.apartFromReclaim (s0 : State) : State :=
  let s := s0.apartFromEntries
  { s with
    blocks := BlockMap.reset
    bank0 := { s.bank0 with slots := HoldBank.reset.slots }
    bank1 := { s.bank1 with slots := HoldBank.reset.slots }
    counters :=
      { s.counters with
        holds := { s.counters.holds with revoked := 0 }
        memory := { s.counters.memory with blocksRetired := 0, reclaims := 0, reclaimFailures := 0 } } }

/-- Without what changes of entries and what the archive engine's acts, the end of a draining session and the arbiter
change. -/
def State.apartFromArchive (s0 : State) : State :=
  let s := s0.apartFromEntries
  { s with
    engine := { Engine.reset with bound := s.engine.bound, ending := s.engine.ending }
    mem :=
      { MemService.reset with
        cal := s.mem.cal, order := s.mem.order, refreshPhase := s.mem.refreshPhase, cells := s.mem.cells
        flipped := s.mem.flipped, late := s.mem.late }
    session :=
      { s.session with
        state := match s.session.state with
          | .draining => .stopped
          | st => st
        stopTaken := false, drain0 := false, drain1 := false, drainDue := none }
    aligner := match s.session.state with
      | .draining => Aligner.rest s.aligner.params
      | .stopped => Aligner.rest s.aligner.params
      | _ => s.aligner
    counters :=
      { s.counters with
        archive :=
          { s.counters.archive with
            lossFrames := 0, gapFrames := 0, filled := 0, flushed := 0, rewinds := 0
            buckets := ArchiveCounters.zero.buckets } } }

/-- Also without what reclaim changes, and what the writer and the aligner change as they settle triggers, cuts and the
end of a session. -/
def State.apartFromCapture (s0 : State) : State :=
  let s := s0.apartFromArchive
  { s with
    catalog := { s.catalog with next := 0 }
    blocks := BlockMap.reset
    bank0 := { s.bank0 with slots := HoldBank.reset.slots }
    bank1 := { s.bank1 with slots := HoldBank.reset.slots }
    writer := Writer.idle s.writer.params
    aligner := Aligner.rest s.aligner.params
    intake := { s.intake with state := .idle, items := [], urgent := false, inTransfer := .nothing }
    session :=
      { s.session with
        state := .stopped
        totals := { s.session.totals with dropped := 0 } }
    counters :=
      { s.counters with
        intake := { s.counters.intake with dropsStop := 0 }
        trigger := { TriggerCounters.zero with forced := s.counters.trigger.forced }
        catalog := CatalogCounters.zero
        holds := { s.counters.holds with revoked := 0 }
        memory := { s.counters.memory with blocksRetired := 0, reclaims := 0, reclaimFailures := 0 } }
    freeCount := 0 }

/-- Also without what a frame group changes: the intake unit, the session totals, the INTAKE counters and the copy of the
newest received frame index. -/
def State.apartFromIntake (s0 : State) : State :=
  let s := s0.apartFromCapture
  { s with
    intake := Intake.reset
    session := { s.session with totals := Totals.zero }
    counters := { s.counters with intake := IntakeCounters.zero }
    faults := { s.faults with newest := 0 } }

/-- `t` is `u` after the engine and the arbiter have gone on, with any DRAIN_DONE that this leads to. -/
structure FollowedByEngine (u t : State) : Prop where
  ran : t = engineEvent u
  apart : t.apartFromArchive = u.apartFromArchive
  ports : ∀ p, PortKept (u.port p) (t.port p)

/-- `t` is `u` after the aligner and the writer have settled, and the engine and the arbiter have gone on. -/
structure FollowedByCapture (u t : State) : Prop where
  ran : t = captureEvent u
  apart : t.apartFromCapture = u.apartFromCapture
  ports : ∀ p, PortKept (u.port p) (t.port p)

/-! ## Triggers -/

/-- A trigger message is stamped as trigger `tr` (R110): an ALIGNED one keeps its frame index, a RAW one takes the newest
received less the RAW latency. -/
def Stamped (m : TrigMessage) (tr : Trigger) (a : Aligner) : Prop :=
  (∃ frame : BitVec 64, m = .aligned tr.source frame tr.fine ∧ tr.frame = frame.toNat ∧ tr.stamp = .aligned) ∨
    ∃ n, m = .raw tr.source tr.fine ∧ a.newest = some n ∧ a.params.rawLatency ≤ n ∧
      tr.frame = n - a.params.rawLatency ∧ tr.stamp = .raw

/-! ## The arbiter -/

/-- The window-read level: the oldest burst of the port the pointer names, or else of the other port; the pointer then
names the port not granted (R143). -/
def WindowLevel (m k : MemService) : Prop :=
  (∀ b rest, m.windowAsk m.pointer = b :: rest →
    k.busy = some (.window b) ∧ k.pointer = m.pointer.other ∧ k.windowAsk m.pointer = rest) ∧
  (m.windowAsk m.pointer = [] → ∀ b rest, m.windowAsk m.pointer.other = b :: rest →
    k.busy = some (.window b) ∧ k.pointer = m.pointer ∧ k.windowAsk m.pointer.other = rest) ∧
  (m.windowAsk m.pointer = [] → m.windowAsk m.pointer.other = [] → k.busy = none ∧ k.pointer = m.pointer)

/-! ## Notices and fault reports -/

/-- A notice has reached port p: it has joined the completion queue, or its kind is in the pending-notice set and the
notices-missed flag is set (R172, R173). -/
def Notified (s t : State) (p : Port) (k : NoticeKind) (payload : List Field) : Prop :=
  Posted (s.port p) (t.port p) (noticeSlot k.code payload t) ∨
    (k ∈ (t.port p).missed ∧ (t.port p).noticesMissed = true)

/-- One report of kind `k` and detail `d` has been taken by the fault record of unit `u` (R183): nothing for a kind not
enabled; a clear record filled; a valid one kept, with its overflow set. The other records and the masks are as they
were. -/
structure FaultReported (s t : State) (u : FaultUnit) (k : FaultKind) (d : Nat) : Prop where
  masks : t.faults.masks = s.faults.masks
  newest : t.faults.newest = s.faults.newest
  others : ∀ v : Fin 6, v ≠ u.idx → t.faults.records.get v = s.faults.records.get v
  off : s.faults.enabled u k = false → t.faults.records.get u.idx = s.faults.records.get u.idx
  first :
    s.faults.enabled u k = true → (s.faults.records.get u.idx).valid = false →
      t.faults.records.get u.idx =
        { valid := true, overflow := false, kind := k.code, detail := BitVec.ofNat 64 d, frame := s.faults.newest }
  later :
    s.faults.enabled u k = true → (s.faults.records.get u.idx).valid = true →
      t.faults.records.get u.idx = { s.faults.records.get u.idx with overflow := true }

/-- `t` differs from `s` in the port units, counters and fault records only. -/
def SameBlocks (s t : State) : Prop :=
  { t with port0 := s.port0, port1 := s.port1, counters := s.counters, faults := s.faults } = s

end Sys2Proof.Machine
end

