-- ==== Sys2Proof/Certificates/Slice0/Obligations.lean ====
section
/-! DEFINITION. The statements for the provers: what the commands do, what they leave, and what every step keeps. -/

open Sys2Proof Sys2Proof.Machine

/-! ## Steps, and what every step keeps -/

/-- A step takes the command at the front of the queue and runs it on the state with the queue's rest. -/
def Obligations.StepRunsFrontCommand : Prop :=
  ∀ (c : Instr) (rest : List Instr) (s : State), s.pending = c :: rest → step s = exec c { s with pending := rest }

/-- Every well-formed command answers a next state, provided that a burst in progress lies in capture memory; every
other command, a window access or control-window write of a length or offset that the link does not have, is refused as ill
formed (log entry 27). -/
def Obligations.WellFormedCommandsComplete : Prop :=
  ∀ (c : Instr) (s : State),
    (c.wf = true →
      (∀ b, s.mem.busy = some (.writer b) ∨ s.mem.busy = some (.stray b) → b.addr + b.bytes.length ≤ 34359738368) →
      (∀ b d, s.mem.busy = some (.archive b d) → b.addr + b.len ≤ 34359738368) →
      (∀ b, s.mem.busy = some (.window b) → b.addr + b.len ≤ 34359738368) →
      ∃ t, exec c s = .next t) ∧
    (c.wf = false → exec c s = .refused .illFormed)

/-- Every step keeps capture memory in its canonical form. -/
def Obligations.MemoryStaysCanonical : Prop :=
  ∀ s t : State, s.memoryCanonical → step s = .next t → t.memoryCanonical

/-- Every step keeps the refresh debt at 9 or below (R144). -/
def Obligations.RefreshDebtStaysBounded : Prop :=
  ∀ s t : State, s.debtBounded → step s = .next t → t.debtBounded

/-- Every step keeps the catalog numbered consecutively, its tail one below the next record number, and its entries at
most 4096 (R1, R2). -/
def Obligations.CatalogStaysNumbered : Prop :=
  ∀ s t : State, s.catalog.Numbered → step s = .next t → t.catalog.Numbered

/-- The three invariants hold after power-on. That capture memory, whose contents no rule states then, lists nothing is log
entry 7, the model's choice. -/
def Obligations.InvariantsHoldAtReset : Prop :=
  State.reset.memoryCanonical ∧ State.reset.debtBounded ∧ State.reset.catalog.Numbered

/-- No command moves or overwrites an entry of a port's completion queue, but POWER_ON, and on that port a write that
can move its completion head and a port reset. -/
def Obligations.CompletionEntriesStay : Prop :=
  ∀ (c : Instr) (p : Port) (s t : State), exec c s = .next t → c ≠ .powerOn →
    (∀ v, c ≠ .completionHeadWrite p v) → (∀ off bs, c ≠ .controlWindowWrite p off bs) → c ≠ .portReset p →
    QueueKept (s.port p) (t.port p)

/-- Capture memory is changed by the writer's bursts, by the end of a successful calibration and by power-on, and by
nothing else. That a failed calibration leaves its contents as they were, where R150 says that they are not defined, is log
entry 6 (DEDUCED): nothing can read them then. -/
def Obligations.OnlyWriterBurstsWriteMemory : Prop :=
  ∀ (c : Instr) (s t : State), exec c s = .next t → c ≠ .powerOn → c ≠ .calibrationSuccess →
    (∀ ks, c ≠ .writerBurstDone ks) → ∀ a, Memory.read a t.mem.cells = Memory.read a s.mem.cells

/-! ## Power-on and the memory service -/

/-- POWER_ON brings every block to its power-on state. -/
def Obligations.PowerOnResetsEveryBlock : Prop :=
  ∀ s : State, ∃ t, exec .powerOn s = .next t ∧
    t.catalog.entries = [] ∧ t.catalog.next = 1 ∧ t.catalog.epoch = 0 ∧ t.catalog.session = 0 ∧
    (∀ b, b < 8192 → t.blocks.get b = { state := .free, next := none, owner := none, held := 0, suspect := false }) ∧
    t.blocks.free = List.range 8192 ∧ t.blocks.faulty = 0 ∧ t.blocks.last = none ∧
    (∀ p, (∀ i, (t.bank p).hold i = none) ∧ (t.bank p).tagCounter = 0 ∧ (t.bank p).reads = []) ∧
    t.engine.bound = none ∧ t.engine.state = .unbound ∧ t.engine.buffers = [] ∧ t.engine.used = 0 ∧
    t.engine.touched = none ∧ t.engine.awaiting = [] ∧ t.engine.cursor = 1 ∧ t.engine.sendPos = 1 ∧
    t.engine.claim = none ∧ t.engine.progress = Progress.clear ∧ t.engine.flush = none ∧ t.engine.lowArmed = true ∧
    t.writer.state = .idle ∧ t.writer.nextFrame = none ∧ t.writer.openRec = none ∧ t.writer.handed = none ∧
    t.writer.waiting = none ∧ t.writer.cause = none ∧ t.writer.written = 0 ∧ t.writer.stopping = false ∧
    t.aligner.state = .disarmed ∧ t.aligner.pending = none ∧ t.aligner.handOver = none ∧ t.aligner.capture = none ∧
    t.aligner.marks = [] ∧ t.aligner.disarmAfterSeal = false ∧
    t.intake.state = .idle ∧ t.intake.linkUp = false ∧ t.intake.items = [] ∧ t.intake.setup = [] ∧
    t.intake.expected = none ∧ t.intake.newest = none ∧ t.intake.urgent = false ∧
    t.mem.cal = .calibrating ∧ t.mem.order = .normal ∧ t.mem.pointer = .p0 ∧ t.mem.debt = 0 ∧ t.mem.busy = none ∧
    t.session.state = .stopped ∧ t.session.generation = 0 ∧ t.session.config = none ∧ t.session.stopTaken = false ∧
    t.session.drain0 = false ∧ t.session.drain1 = false ∧ t.session.inProgress = none ∧
    t.session.totals = Totals.zero ∧
    (∀ p, t.port p = PortUnit.reset) ∧ t.counters = Counters.zero ∧
    (∀ u, t.faults.records.get u = FaultRecord.clear) ∧ t.faults.masks.toList = [7, 15, 3, 31, 255, 255] ∧
    t.faults.newest = 0 ∧ t.pending = s.pending

/-- The end of calibration: with success capture memory reads zero everywhere, with every granule intact; with failure a
MEMORY fault is logged, and that the contents of capture memory, which R150 leaves undefined, are as they were is log entry
6 (DEDUCED); out of CALIBRATING neither is an occasion of the part (log entry 1). -/
def Obligations.CalibrationEnds : Prop :=
  ∀ s : State,
    (s.mem.cal = .calibrating →
      (∃ t, exec .calibrationSuccess s = .next t ∧ t.mem.cal = .ready ∧ t.mem.debt = 0 ∧ t.mem.flipped = [] ∧
        t.mem.late = [] ∧ (∀ a, Memory.read a t.mem.cells = 0) ∧ { t with mem := s.mem } = s) ∧
      (∃ t, exec .calibrationFailure s = .next t ∧ t.mem = { s.mem with cal := .failed } ∧
        FaultReported s t .memory .calibration 0 ∧ (∀ p, PortKept (s.port p) (t.port p)) ∧
        t.apartFromNotices = ({ s with mem := { s.mem with cal := .failed } } : State).apartFromNotices)) ∧
    (s.mem.cal ≠ .calibrating → exec .calibrationSuccess s = .next s ∧ exec .calibrationFailure s = .next s)

/-- A refresh that comes due raises the debt by one, at most to 9; a rise to 9, or a refresh due at 9, is counted and
logged as overdue. The refresh that the arbiter then grants, if it grants one, lowers the debt by one. That the command
holds at any moment and starts the refresh timer again is log entry 4, and that it has no effect out of READY is log
entry 1: both are the model's choices. -/
def Obligations.RefreshComesDue : Prop :=
  ∀ s : State,
    (s.mem.cal = .ready →
      ∃ t, exec .refreshDue s = .next t ∧
        t.mem.debt + (if s.mem.busy = none ∧ t.mem.busy = some .refresh then 1 else 0) = min (s.mem.debt + 1) 9 ∧
        t.mem.refreshPhase = 0 ∧ t.mem.cells = s.mem.cells ∧
        t.counters.memory.refreshOverdue =
          (if 8 ≤ s.mem.debt then sat s.counters.memory.refreshOverdue 1 else s.counters.memory.refreshOverdue) ∧
        (8 ≤ s.mem.debt → FaultReported s t .memory .refreshOverdue 0) ∧
        (s.mem.debt < 8 → { t with mem := s.mem } = s) ∧ (∀ p, PortKept (s.port p) (t.port p))) ∧
    (s.mem.cal ≠ .ready → exec .refreshDue s = .next s)

/-- When a refresh completes, the arbiter grants the highest level present: a refresh at debt 9, the writer while the
intake is urgent, a refresh owed, and then by the order in force writer, archive engine, window reads, or window reads,
writer, archive engine. -/
def Obligations.ArbiterGrantsHighestLevel : Prop :=
  ∀ s : State, s.mem.busy = some .refresh → s.mem.cal = .ready →
    ∃ t, exec .refreshDone s = .next t ∧ { t with mem := s.mem } = s ∧ t.mem.cells = s.mem.cells ∧
      (9 ≤ s.mem.debt → t.mem.busy = some .refresh ∧ t.mem.debt = s.mem.debt - 1) ∧
      (s.mem.debt < 9 → s.intake.urgent = true → ∀ b, s.mem.writerAsk = some b →
        t.mem.busy = some (.writer b) ∧ t.mem.writerAsk = none) ∧
      (1 ≤ s.mem.debt → s.mem.debt < 9 → (s.intake.urgent = false ∨ s.mem.writerAsk = none) →
        t.mem.busy = some .refresh ∧ t.mem.debt = s.mem.debt - 1) ∧
      (s.mem.debt = 0 → s.mem.order = .normal →
        (∀ b, s.mem.writerAsk = some b → t.mem.busy = some (.writer b)) ∧
        (s.mem.writerAsk = none → ∀ b, s.mem.archiveAsk = some b → t.mem.busy = some (.archive b false)) ∧
        (s.mem.writerAsk = none → s.mem.archiveAsk = none → WindowLevel s.mem t.mem)) ∧
      (s.mem.debt = 0 → s.mem.order = .viewFirst → (s.intake.urgent = false ∨ s.mem.writerAsk = none) →
        ((s.mem.windowAsk0 ≠ [] ∨ s.mem.windowAsk1 ≠ []) → WindowLevel s.mem t.mem) ∧
        (s.mem.windowAsk0 = [] → s.mem.windowAsk1 = [] →
          (∀ b, s.mem.writerAsk = some b → t.mem.busy = some (.writer b)) ∧
          (s.mem.writerAsk = none → ∀ b, s.mem.archiveAsk = some b → t.mem.busy = some (.archive b false)) ∧
          (s.mem.writerAsk = none → s.mem.archiveAsk = none → t.mem.busy = none)))

/-! ## Sample intake and the trigger link -/

/-- A frame group taken while ACCEPTING: the expected and newest indices, the totals, and the frames between the expected
index and the group's declared missing. Of a group in transfer at a START under FRAME alignment the frames that arrived
after it are taken; that the group that completes is that group is the model's choice (log entry 22). An index past the
last 64-bit one, for which the spec has no value, is a free value (log entry 43: Config.frameIndex). -/
def Obligations.FrameGroupIsTaken : Prop :=
  ∀ (first : BitVec 64) (frames : Vector (Vector Sample 8) 32) (s : State),
    s.intake.linkUp = true → s.intake.state = .accepting →
    let index (k : Nat) : Nat := Config.frameIndex (first.toNat + k)
    let taken : Nat → State → Prop := fun m t =>
      t.intake.expected = some (index 32) ∧ t.intake.newest = some (index 31) ∧
        t.faults.newest = index 31 ∧ t.session.totals.received = sat s.session.totals.received (32 - m) ∧
        (s.counting = true → t.counters.intake.groupsTaken = sat s.counters.intake.groupsTaken 1) ∧
        t.intake.firstFrame = s.intake.firstFrame.or (some (index m)) ∧ t.intake.setup = s.intake.setup ∧
        t.session.totals.written = s.session.totals.written ∧
        t.session.totals.passedOver = s.session.totals.passedOver ∧ t.mem.cells = s.mem.cells ∧
        t.apartFromIntake = s.apartFromIntake ∧ ∀ q, PortKept (s.port q) (t.port q)
    (∀ k, first.toNat + k < 2 ^ 64 → index k = first.toNat + k) ∧
    (s.intake.inTransfer = .nothing → (∀ e, s.intake.expected = some e → e ≤ first.toNat) →
      ∃ t, exec (.frameGroup first frames) s = .next t ∧ taken 0 t ∧
        (∀ e, s.intake.expected = some e → e < first.toNat →
          t.session.totals.missing = sat s.session.totals.missing (first.toNat - e)) ∧
        ((∀ e, s.intake.expected = some e → e = first.toNat) →
          t.session.totals.missing = s.session.totals.missing)) ∧
    (∀ m, s.intake.inTransfer = .partialGroup m →
      ∃ t, exec (.frameGroup first frames) s = .next t ∧ taken m t ∧
        t.session.totals.missing = s.session.totals.missing)

/-- A frame group that is not taken: with the link DOWN or the intake not ACCEPTING it has no effect (with the link DOWN
the model's choice, log entry 23); one whose index is below the expected index is malformed, counted, and logged with its
index; one in transfer at a START under GROUP alignment is discarded. That the group that completes next, whatever its
index, is the one in transfer is the model's choice (log entry 22). -/
def Obligations.FrameGroupNotTaken : Prop :=
  ∀ (first : BitVec 64) (frames : Vector (Vector Sample 8) 32) (s : State),
    ((s.intake.linkUp = false ∨ s.intake.state ≠ .accepting) → exec (.frameGroup first frames) s = .next s) ∧
    (s.intake.linkUp = true → s.intake.state = .accepting → s.intake.inTransfer = .nothing →
      ∀ e, s.intake.expected = some e → first.toNat < e →
        ∃ u t, FaultReported s u .intake .malformedGroup first.toNat ∧
          exec (.frameGroup first frames) s = .next t ∧ t = captureEvent (cutClosed (settle u)) ∧
          t.intake.expected = some e ∧ t.intake.newest = s.intake.newest ∧ t.faults.newest = s.faults.newest ∧
          t.session.totals.received = s.session.totals.received ∧
          t.session.totals.missing = s.session.totals.missing ∧
          (s.counting = true → t.counters.intake.groupsMalformed = sat s.counters.intake.groupsMalformed 1) ∧
          t.apartFromIntake = s.apartFromIntake ∧ ∀ q, PortKept (s.port q) (t.port q)) ∧
    (s.intake.linkUp = true → s.intake.state = .accepting → s.intake.inTransfer = .discardGroup →
      ∃ t, exec (.frameGroup first frames) s = .next t ∧ t.intake.expected = s.intake.expected ∧
        t.intake.newest = s.intake.newest ∧ t.session.totals.received = s.session.totals.received ∧
        t.counters.intake.groupsTaken = s.counters.intake.groupsTaken ∧
        t.apartFromIntake = s.apartFromIntake ∧ ∀ q, PortKept (s.port q) (t.port q))

/-- The stored value of a slot, by source and coding. -/
def Obligations.SlotValuesFollowCoding : Prop :=
  ∀ (samples : Vector Sample 8) (n : Fin 8) (k : Fin 4),
    let a : Fin 8 := ⟨2 * k.val, by omega⟩
    let b : Fin 8 := ⟨2 * k.val + 1, by omega⟩
    let d : Int := ((samples.get a).toNat : Int) - ((samples.get b).toNat : Int)
    slotValue samples { source := .channel n, coding := .unsigned } = samples.get n ∧
    (slotValue samples { source := .channel n, coding := .signed }).toInt = ((samples.get n).toNat : Int) - 32768 ∧
    (slotValue samples { source := .pair k, coding := .signed }).toInt =
      (if 32767 < d then 32767 else if d < -32768 then -32768 else d) ∧
    ((slotValue samples { source := .pair k, coding := .unsigned }).toNat : Int) =
      (if 32767 < d then 32767 else if d < -32768 then -32768 else d) + 32768

/-- One frame judged against the intake buffer: accepted where it has room and fewer than 16 cuts, and then it closes an
OPEN cut; else dropped, into the OPEN cut or into a new one at the newest end. The storage is never exceeded. -/
def Obligations.FramesAreAcceptedOrDropped : Prop :=
  ∀ (s : State) (i : Nat) (bytes : List Byte),
    let room := (frameCount s.intake.items + 1) * s.intake.frameSize ≤ 1048576 ∧ cutCount s.intake.items < 16
    let t := judgeFrame s (i, bytes)
    (room → s.intake.openCut = none → t = { s with intake := { s.intake with items := s.intake.items ++ [.frame i bytes] } }) ∧
    (room → ∀ c, s.intake.openCut = some c →
      t = { s with
            intake :=
              { s.intake with items := s.intake.items.dropLast ++ [.cut { c with closed := true }] ++ [.frame i bytes] } }) ∧
    (¬ room → t.session.totals.dropped = sat s.session.totals.dropped 1) ∧
    (¬ room → ∀ c, s.intake.openCut = some c →
      t.intake.items = s.intake.items.dropLast ++ [.cut { c with count := c.count + 1 }]) ∧
    (¬ room → s.intake.openCut = none →
      t.intake.items = s.intake.items ++ [.cut { first := i, count := 1, cause := s.writer.dropCause, closed := false }]) ∧
    (¬ room → s.writer.state = .starved → t.writer.episodeDrops = s.writer.episodeDrops + 1) ∧
    (frameCount s.intake.items * s.intake.frameSize ≤ 1048576 →
      frameCount t.intake.items * t.intake.frameSize ≤ 1048576)

/-- The digitizer link's changes: DOWN is counted and logged with the expected index, and a group in transfer is gone; the
first UP after power-on is taken quietly, a later one is counted and logged. That a group in transfer at a START that fails
so fixes no first frame for intake, writer and aligner (R135 says only that it is discarded) is the model's choice (log
entry 22), and so is that a change to the state the link already has does nothing (log entry 1). -/
def Obligations.LinkChangesAreLogged : Prop :=
  ∀ s : State,
    let down (u t : State) : Prop :=
      exec .linkDown s = .next t ∧ FaultReported s t .intake .linkDown (s.intake.expected.getD 0) ∧
        (∀ p, PortKept (s.port p) (t.port p)) ∧
        t.apartFromNotices =
          (countIntake (fun c => { c with linkDown := sat c.linkDown 1 })
            { u with intake := { u.intake with linkUp := false, inTransfer := .nothing } }).apartFromNotices
    (s.intake.linkUp = true → (∀ m, s.intake.inTransfer ≠ .partialGroup m) → ∃ t, down s t) ∧
    (s.intake.linkUp = true → ∀ m, s.intake.inTransfer = .partialGroup m →
      ∃ t,
        down
          { s with
            intake := { s.intake with firstFrame := none }
            writer := { s.writer with nextFrame := none }
            aligner := { s.aligner with firstFrame := none, armingFrame := none } } t) ∧
    (s.intake.linkUp = false → s.intake.linkSeen = false →
      exec .linkUp s = .next { s with intake := { s.intake with linkUp := true, linkSeen := true } }) ∧
    (s.intake.linkUp = false → s.intake.linkSeen = true →
      ∃ t, exec .linkUp s = .next t ∧ FaultReported s t .intake .linkUp 0 ∧
        (∀ p, PortKept (s.port p) (t.port p)) ∧
        t.apartFromNotices =
          (countIntake (fun c => { c with linkUp := sat c.linkUp 1 })
            { s with intake := { s.intake with linkUp := true } }).apartFromNotices) ∧
    (s.intake.linkUp = false → exec .linkDown s = .next s) ∧ (s.intake.linkUp = true → exec .linkUp s = .next s)

/-- A trigger message is judged. Out of RUNNING and FINISHING it has no effect. A RAW message that no frame can stamp is
stale (R110); every other is stamped, and judged by the rows of R114 in a segmented session and by R122 in a continuous one,
with the marks of R121 and the pending trigger of R115. Each outcome says the whole state that the aligner and the writer
then settle. That a mark is judged at once only with no hand-over present is log entry 35, and that a continuous aligner
that is not MARKING ignores a trigger is log entry 31. -/
def Obligations.AlignedTriggerIsJudged : Prop :=
  ∀ (m : TrigMessage) (s : State),
    let a := s.aligner
    let leads (u : State) : Prop := ∃ t, exec (.triggerMessage m) s = .next t ∧ FollowedByCapture u t
    let counts (f : TriggerCounters → TriggerCounters) : Prop :=
      leads { s with counters := { s.counters with trigger := f s.counters.trigger } }
    let stale : Prop := counts (fun c => { c with stale := sat c.stale 1 })
    let ignored : Prop := counts (fun c => { c with ignored := sat c.ignored 1 })
    let overrun : Prop := counts (fun c => { c with overrun := sat c.overrun 1 })
    let late : Prop := counts (fun c => { c with lateMarks := sat c.lateMarks 1 })
    (s.counting = false → exec (.triggerMessage m) s = .next s) ∧
    (s.counting = true → ∀ src fine, m = .raw src fine → (∀ n, a.newest = some n → n < a.params.rawLatency) → stale) ∧
    (s.counting = true → ∀ tr : Trigger, Stamped m tr a →
      let f := tr.frame
      let enabled := a.params.markEnabled tr.source
      let mark : Mark := { frame := f, fine := tr.fine, source := tr.source }
      let pends : Prop :=
        (a.pending = none → leads { s with aligner := { a with pending := some tr } }) ∧ (a.pending ≠ none → overrun)
      let marked : Prop :=
        (16 ≤ a.marks.length → overrun) ∧
          (a.marks.length < 16 → a.handOver = none → s.writerPassed f = true →
            (∀ c, a.capture = some c → s.insideCapture f = true → leads (sendMark c.number s mark)) ∧
              (s.insideCapture f = false → late)) ∧
          (a.marks.length < 16 → (a.handOver ≠ none ∨ s.writerPassed f = false) →
            leads { s with aligner := { a with marks := a.marks ++ [mark] } })
      let ranged (last : Nat) : Prop :=
        (f ≤ last → enabled = true → marked) ∧ (f ≤ last → enabled = false → ignored) ∧
          (last < f → f ≤ last + a.params.holdoff → ignored) ∧ (last + a.params.holdoff < f → pends)
      (s.inEpisode f = true → counts (fun c => { c with lostToDrop := sat c.lostToDrop 1 })) ∧
      (s.inEpisode f = false → a.params.mode = .segmented →
        ((∀ n, a.newest = some n → n < f) → pends) ∧
        (∀ n, a.newest = some n → f ≤ n →
          (a.state = .disarmed ∨ a.state = .holdoff → a.inLastSealed f = true → enabled = true → late) ∧
          (a.inLastSealed f = false ∨ enabled = false →
            (a.state = .disarmed → ignored) ∧
              (a.state = .holdoff → ∀ e, a.holdoffEnd = some e → (f ≤ e → ignored) ∧ (e < f → pends))) ∧
          (a.state = .capturing → ∀ c l, a.capture = some c → c.last = some l →
            (f < c.first → enabled = true → late) ∧ (f < c.first → enabled = false → ignored) ∧
              (c.first ≤ f → ranged l)) ∧
          (a.state = .arming ∨ a.state = .armed →
            (∀ h, a.handOver = some h → (f < h.frame → overrun) ∧ (h.frame ≤ f → ranged h.last)) ∧
            (a.handOver = none → ∀ x, a.armingFrame = some x →
              (f < x → stale) ∧
              (x ≤ f → a.state = .arming → a.params.early = .ignore →
                counts (fun c => { c with early := sat c.early 1 })) ∧
              (x ≤ f → (a.state = .armed ∨ a.params.early = .accept) →
                leads
                  { s with
                    writer := { s.writer with handed := some tr }
                    aligner := { a with handOver := some { frame := f, last := f + a.params.post - 1 } } }))))) ∧
      (s.inEpisode f = false → a.params.mode = .continuous →
        (a.state ≠ .marking ∨ enabled = false → ignored) ∧
        (a.state = .marking → enabled = true → ∀ x, (a.capture.map (fun c => c.first)).or a.firstFrame = some x →
          (f < x → late) ∧ (x ≤ f → marked))))

/-! ## The record writer -/

/-- In PASSING the writer passes over the oldest frame: it leaves the buffer, whose urgency is examined (R134), it is
counted, and the next frame index moves past it; nothing else changes. -/
def Obligations.PassingWriterPassesFrame : Prop :=
  ∀ (s : State) (i : Nat) (bytes : List Byte) (rest : List Item),
    s.writer.state = .passing → s.mem.writerBurst = none → s.intake.items = .frame i bytes :: rest →
    (∀ c ∈ s.writer.changes, i < c.1) →
    ∃ t, exec .writerTakeItem s = .next t ∧
      FollowedByCapture
        { s with
          intake := ({ s.intake with items := rest } : Intake).examineUrgency
          writer := { s.writer with nextFrame := some (i + 1) }
          session :=
            { s.session with
              totals := { s.session.totals with passedOver := sat s.session.totals.passedOver 1 } } } t ∧
      t.session.totals.passedOver = sat s.session.totals.passedOver 1 ∧ t.mem.cells = s.mem.cells

/-- In RECORDING a continuous record with room in its last block asks one write burst: the frames at the oldest end of
the buffer, at most those of 512 bytes and those that the block still takes, at the address after the frames the block
holds. Nothing else changes. That a burst takes all the frames it may is log entry 10. While a burst whose frames a STOP has
dropped is granted, the writer asks no other (R141: it has at most one); that there is such a burst, and that the frame
waits, is log entry 15. -/
def Obligations.RecordingWriterAsksBurst : Prop :=
  ∀ (s : State) (i n b : Nat) (bytes : List Byte) (rest : List Item),
    s.writer.state = .recording → s.writer.params.mode = .continuous → s.writer.openRec = some n →
    s.writer.recLast = none → s.writer.handed = none → s.writer.changes = [] → s.writer.chainLast = some b →
    s.writer.lastFill < s.writer.params.framesPerBlock → s.mem.writerBurst = none →
    s.intake.items = .frame i bytes :: rest →
    let frames :=
      (leadingFrames s.intake.items).take
        (min (512 / s.writer.params.frameSize) (s.writer.params.framesPerBlock - s.writer.lastFill))
    ((∀ d, s.mem.busy ≠ some (.stray d)) →
      ∃ t, exec .writerTakeItem s = .next t ∧
        FollowedByCapture
          { s with
            writer := { s.writer with nextFrame := some i }
            mem :=
              { s.mem with
                writerAsk :=
                  some
                    { block := b, addr := b * 4194304 + s.writer.lastFill * s.writer.params.frameSize
                      count := frames.length, bytes := frames.flatten } } } t ∧ t.mem.cells = s.mem.cells) ∧
    (∀ d, s.mem.busy = some (.stray d) → exec .writerTakeItem s = .next s)

/-- A completed write burst of the writer: its bytes stand at its addresses, every byte of a granule it does not touch is
as before, and its frames are counted as written. One whose frames a STOP has already dropped writes its bytes in the same
way and counts nothing; with an IDLE writer or an empty buffer it changes nothing but the memory service, and a writer that
is RECORDING, and that waited for it with a frame at the oldest end, then takes that item before the arbiter's next grant
(log entry 15). The bit errors of the burst are the command's operands (log entry 5). -/
def Obligations.WriterBurstWritesItsBytes : Prop :=
  ∀ (s : State) (b : WriterBurst) (ks : List Strike), s.memoryCanonical → b.bytes ≠ [] →
    b.addr + b.bytes.length ≤ 34359738368 →
    let written (t : State) : Prop :=
      (∀ i, i < b.bytes.length → Memory.read (b.addr + i) t.mem.cells = b.bytes.getD i 0) ∧
        ∀ a, (∀ i, i < b.bytes.length → a / 32 ≠ (b.addr + i) / 32) →
          Memory.read a t.mem.cells = Memory.read a s.mem.cells
    (s.mem.busy = some (.writer b) →
      ∃ t, exec (.writerBurstDone ks) s = .next t ∧ written t ∧
        t.session.totals.written = sat s.session.totals.written b.count) ∧
    (s.mem.busy = some (.stray b) →
      (∃ t, exec (.writerBurstDone ks) s = .next t ∧ written t ∧
        (s.writer.state = .idle ∨ s.intake.items = [] → { t with mem := s.mem } = s)) ∧
      (s.writer.state = .recording → s.mem.writerAsk = none →
        ∀ i bytes rest, s.intake.items = .frame i bytes :: rest →
          ∃ u, { u with mem := s.mem } = s ∧ written u ∧ u.mem.busy = none ∧
            exec (.writerBurstDone ks) s = exec .writerTakeItem u))

/-- A waiting take-block request offered a block: the block at the head of the free list joins the chain, the writer
leaves STARVED for its resume state, and both ports are told. -/
def Obligations.OfferedBlockEndsStarvation : Prop :=
  ∀ (s : State) (b : Nat) (rest : List Nat), s.writer.state = .starved → s.writer.offered = true →
    s.writer.waiting = some .takeBlock → s.blocks.free = b :: rest → b < 8192 →
    (∀ l, s.writer.chainLast = some l → (s.blocks.get l).state ≠ .filling ∧ l ≠ b) →
    ∃ u t, exec .waitingRequestOffer s = .next t ∧ FollowedByCapture u t ∧
      u.writer.state = s.writer.resume ∧ u.writer.waiting = none ∧ u.writer.cause = none ∧
      u.writer.chainLast = some b ∧ u.writer.chainBlocks = s.writer.chainBlocks + 1 ∧ u.writer.lastFill = 0 ∧
      u.blocks.free = rest ∧ (u.blocks.get b).state = .filling ∧ (u.blocks.get b).owner = s.writer.openRec ∧
      (u.blocks.get b).held = 0 ∧ u.intake = s.intake ∧ u.aligner = s.aligner ∧ u.catalog = s.catalog ∧ u.mem = s.mem ∧
      ∀ p, Notified s u p .writerResumed
        [⟨0, 1, (s.writer.cause.map StarvedCause.code).getD 0⟩, ⟨8, 8, s.writer.episodeDrops⟩]

/-! ## The archive engine -/

/-- The engine starts the entry at its send position: an archive-required SEALED record takes the claim and begins with
its HEADER; a LOST record or a GAP entry takes no claim and goes out as one frame. That the send position skips at this
start, and not only at a binding and at the end of an entry (R74), is log entry 14. -/
def Obligations.EngineStartsEntry : Prop :=
  ∀ (s : State) (e : Entry) (p : Port), s.engine.bound = some p →
    (s.engine.state = .idle ∨ s.engine.state = .sending) → s.engine.ending = none →
    s.engine.closed = none → s.engine.progress.started = false →
    s.catalog.find (s.catalog.skip s.engine.sendPos) = some e →
    (e.state = .sealed ∧ e.archReq = true ∧ s.engine.claim = none ∧ e.isData = true ∨
      e.state = .lost ∧ e.isData = true ∨ e.state = .sealed ∧ e.isData = false) →
    ∃ u t, exec .entryStart s = .next t ∧ FollowedByEngine u t ∧
      u.engine.state = .sending ∧ u.engine.flush = none ∧ u.engine.sendPos = s.catalog.skip s.engine.sendPos ∧
      u.engine.progress.started = true ∧ u.engine.progress.fragment = 0 ∧ u.engine.progress.offset = 0 ∧
      u.engine.progress.crc = 0xFFFFFFFF ∧ u.engine.progress.damaged = [] ∧ u.engine.progress.written = false ∧
      (e.state = .sealed → e.isData = true → u.engine.claim = some e.number ∧ u.engine.progress.stage = .header) ∧
      (e.state = .lost ∨ e.isData = false → u.engine.claim = s.engine.claim ∧ u.engine.progress.stage = .whole) ∧
      { u with engine := s.engine } = s

/-- A completed archive burst: its data, corrected as R146 gives, joins the DATA frame in production, and the record in
transfer is damaged when a granule was uncorrectable (R10), also while an UNBIND_ARCHIVE waits for writes; a burst
of a rewound transfer has its data discarded. The arbiter's next grant comes first; the engine then issues the bytes and
asks its next burst. The fate of a burst of a rewound transfer, and that an unbinding waits for no burst, is log entry 38;
the bit errors as the command's operands, and that one in a granule of this frame takes hold at a later burst, are log entry
5. -/
def Obligations.ArchiveBurstJoinsFrame : Prop :=
  ∀ (s : State) (b : ArchiveBurst) (f : DataFrame) (d : Bool) (ks : List Strike), s.mem.busy = some (.archive b d) →
    s.engine.progress.frame = some f → b.addr + b.len ≤ 34359738368 →
    let r := (strikeAll ks s).mem.readBurst b.addr b.len
    let joined (u : State) : Prop :=
      (d = false →
        u.engine.progress.frame = some { f with got := f.got ++ r.data } ∧
        (r.bad ≠ [] → ∀ e x, u.catalog.find s.engine.sendPos = some e → e.data? = some x → x.damaged = true)) ∧
      (d = true → u.engine = s.engine) ∧ u.mem = (arbitrate (releaseGrant (strikeAll ks s))).mem ∧
      u.engine.issued = s.engine.issued ∧ u.engine.sendPos = s.engine.sendPos ∧
      u.writer = { s.writer with offered := u.writer.offered }
    let served (t : State) : Prop :=
      t.counters.memory.corrected = sat s.counters.memory.corrected r.corrected ∧ t.mem.cells = s.mem.cells
    (s.engine.ending = none →
      ∃ u t, exec (.archiveBurstDone ks) s = .next t ∧ FollowedByEngine u t ∧ joined u ∧ served t) ∧
    (∀ q, s.engine.ending = some (.unbind q) → s.engine.issued ≠ [] →
      ∃ t, exec (.archiveBurstDone ks) s = .next t ∧ joined t ∧ served t)

/-- An acknowledged archive write: it is no longer awaited, its bytes are counted, and the entry it carried has been
written to. In FAULTED it is not acted upon; the last answer that a failed write's report waits for is the subject of the
next statement. -/
def Obligations.ArchiveWriteIsAcknowledged : Prop :=
  ∀ (s : State) (n : Nat) (w : OutWrite), s.engine.issued[n]? = some w → s.engine.ending = none →
    (s.engine.state ≠ .faulted →
      ∃ u t, exec (.archiveWriteAck n) s = .next t ∧ FollowedByEngine u t ∧
        u.engine.issued = s.engine.issued.eraseIdx n ∧
        t.counters.archive.bytesWritten = sat s.counters.archive.bytesWritten w.len ∧
        (s.engine.progress.started = true → s.engine.sendPos = w.entry → u.engine.progress.written = true) ∧
        u.engine.buffers = s.engine.buffers ∧ u.engine.claim = s.engine.claim ∧
        { u with engine := s.engine, counters := s.counters } = s) ∧
    (s.engine.state = .faulted → (s.engine.failed = none ∨ s.engine.issued.eraseIdx n ≠ []) →
      exec (.archiveWriteAck n) s = .next { s with engine := { s.engine with issued := s.engine.issued.eraseIdx n } })

/-- A link write error: the engine enters FAULTED with its binding kept and its archive burst withdrawn, and waits for the
answers to the writes already issued; with none unanswered, at once or at the last answer of either kind, the fault is
logged and counted, the transfer is rewound to the cursor, and the buffer's BUFFER_FILLED with ABORTED and LINK_ERROR is
written or waits for a slot. What stands in the engine while it waits is the model's choice (log entry 12). -/
def Obligations.LinkWriteErrorFaultsEngine : Prop :=
  ∀ (s : State) (n : Nat) (w : OutWrite) (p : Port), s.engine.issued[n]? = some w → s.engine.ending = none →
    s.engine.bound = some p →
    let base := (s.engine.buffers.head?.map (fun b => b.addr)).getD 0
    let touched := s.engine.touched.getD (0, 0)
    let reported (x : FailedWrite) (t : State) : Prop :=
      t.engine.state = .faulted ∧ t.engine.bound = some p ∧ t.engine.failed = none ∧
        t.engine.claim = none ∧ t.engine.progress = Progress.clear ∧ t.engine.awaiting = [] ∧ t.engine.closed = none ∧
        t.engine.cursor = s.engine.cursor ∧ t.engine.sendPos = s.engine.cursor ∧ t.engine.flush = none ∧
        t.engine.issued = [] ∧ t.counters.archive.linkErrors = sat s.counters.archive.linkErrors 1 ∧
        FaultReported s t .archive .linkWriteError x.addr.toNat ∧
        (Posted (s.port p) (t.port p) (noticeSlot 0x83 (filledPayload base x.used 6 (some touched)) t) ∨
          t.engine.errorNotice = some { addr := base, used := x.used, first := touched.1, last := touched.2 }) ∧
        t.mem.cells = s.mem.cells ∧ t.intake = s.intake ∧ t.blocks = s.blocks ∧ t.bank0 = s.bank0 ∧ t.bank1 = s.bank1
    (s.engine.state ≠ .faulted → s.engine.issued.eraseIdx n ≠ [] →
      exec (.linkWriteError n) s = .next
        { s with
          mem := withdrawArchive s.mem
          engine :=
            { s.engine with
              state := .faulted, flush := none, issued := s.engine.issued.eraseIdx n
              failed := some { addr := w.addr, used := w.off } } }) ∧
    (s.engine.state ≠ .faulted → s.engine.issued.eraseIdx n = [] →
      ∃ t, exec (.linkWriteError n) s = .next t ∧ reported { addr := w.addr, used := w.off } t) ∧
    (s.engine.state = .faulted → s.engine.issued.eraseIdx n = [] → ∀ x, s.engine.failed = some x →
      (∃ t, exec (.archiveWriteAck n) s = .next t ∧ reported x t) ∧
        ∃ t, exec (.linkWriteError n) s = .next t ∧ reported x t)

/-- The flush timer's expiry in IDLE closes the current buffer; with every write answered and a slot free on the bound
port, BUFFER_FILLED with FLUSHED is written. That the command may come at any time the timer is running is log entry 4,
that it has no effect otherwise log entry 1, and the state of a closed buffer that waits for its writes log entry 13: the
model's choices. -/
def Obligations.FlushTimerClosesBuffer : Prop :=
  ∀ s : State,
    (s.engine.state = .idle → s.engine.flush.isSome = true → s.engine.ending = none →
      ∃ u t, exec .flushTimerExpiry s = .next t ∧ FollowedByEngine u t ∧
        u = { s with engine := { s.engine with closed := some true, state := .sending, flush := none } } ∧
        ∀ p b bs, s.engine.bound = some p → s.engine.issued = [] → 0 < (s.port p).free → s.engine.buffers = b :: bs →
          Posted (s.port p) (t.port p) (noticeSlot 0x83 (filledPayload b.addr s.engine.used 1 s.engine.touched) t)) ∧
    ((s.engine.state ≠ .idle ∨ s.engine.flush = none) → exec .flushTimerExpiry s = .next s)

/-! ## Windows -/

/-- A read whose first byte lies in no window of the port's ACTIVE holds is unmapped. That its error response stands on the
link after the interrupt message of the fault's notice is log entry 21. -/
def Obligations.UnmappedReadIsAnError : Prop :=
  ∀ (p : Port) (a n : Nat) (s : State), a < 68719476736 → 1 ≤ n → n ≤ 256 →
    (∀ i h w, (s.bank p).hold i = some h → h.window = some w → ¬ (w.base ≤ a ∧ a < w.base + w.size)) →
    ∃ t, exec (.windowRead p a n) s = .next t ∧ (t.port p).link.getLast? = some (.readError a) ∧
      (t.port p).unmappedRead = true ∧
      (t.counters.port p).unmappedReads = sat (s.counters.port p).unmappedReads 1 ∧
      (t.counters.port p).windowReads = sat (s.counters.port p).windowReads 1 ∧
      FaultReported s t (portFault p) .unmappedRead a ∧
      t.apartFromNotices =
        (countPort p
          (fun c => { c with windowReads := sat c.windowReads 1, unmappedReads := sat c.unmappedReads 1 }) s).apartFromNotices ∧
      PortKept { s.port p with unmappedRead := true } (t.port p) ∧ PortKept (s.port p.other) (t.port p.other)

/-- A read in the windows of two ACTIVE holds is a decode conflict: flagged, counted and logged; with the conflict-error
enable set it is answered with an error, else the lowest-numbered slot answers it. That the response stands on the link
after the interrupt message of the fault's notice is log entry 21. -/
def Obligations.DecodeConflictIsReported : Prop :=
  ∀ (p : Port) (a n : Nat) (i j : Fin 16) (more : List (Fin 16)) (s : State), a < 68719476736 → 1 ≤ n → n ≤ 256 →
    (s.bank p).answering a = i :: j :: more →
    ∃ u t, exec (.windowRead p a n) s = .next t ∧ (u.port p).decodeConflict = true ∧
      (u.counters.port p).decodeConflicts = sat (s.counters.port p).decodeConflicts 1 ∧
      (u.counters.port p).windowReads = sat (s.counters.port p).windowReads 1 ∧
      FaultReported s u (portFault p) .decodeConflict a ∧
      u.apartFromNotices =
        (countPort p
          (fun c => { c with windowReads := sat c.windowReads 1, decodeConflicts := sat c.decodeConflicts 1 }) s).apartFromNotices ∧
      PortKept { s.port p with decodeConflict := true } (u.port p) ∧ PortKept (s.port p.other) (u.port p.other) ∧
      ((s.port p).conflictErrorEnable = true → t = emit p (.readError a) u) ∧
      ((s.port p).conflictErrorEnable = false → t = answerBySlot p i a n u)

/-- A read through the one window that contains its first byte. In a window over one record that stands in one block, a
read inside the record's bytes becomes a read in flight of the capture addresses of those bytes; a read that begins past
the record's bytes is answered at once with zero bytes. -/
def Obligations.WindowReadIsTranslated : Prop :=
  ∀ (p : Port) (a n b : Nat) (i : Fin 16) (h : Hold) (w : Window) (e : Entry) (d : DataFields) (s : State),
    a < 68719476736 → 1 ≤ n → n ≤ 256 → (s.bank p).answering a = [i] → (s.bank p).hold i = some h →
    h.window = some w → a + n ≤ w.base + w.size → s.catalog.range h.first h.last = [e] → e.body = .data d →
    s.chainOf d.firstBlock = [b] → 1 ≤ d.frameSize →
    d.startOffset * d.frameSize + d.bytes ≤ framesPerBlock d.frameSize * d.frameSize →
    ∃ t, exec (.windowRead p a n) s = .next t ∧
      (a - w.base + n ≤ d.bytes →
        (t.bank p).reads =
            (s.bank p).reads ++
              [{ id := (s.bank p).nextRead, addr := a, len := n, age := 0
                 pieces :=
                   [.run
                      { addr := b * 4194304 + d.startOffset * d.frameSize + (a - w.base), len := n
                        record := e.number, epoch := s.catalog.epoch, data := none }] }] ∧
          t.port p = s.port p) ∧
      (d.bytes ≤ a - w.base →
        (t.port p).link = (s.port p).link ++ [.readData a (List.replicate n 0)] ∧
          (t.counters.port p).overReads = sat (s.counters.port p).overReads 1 ∧
          (t.counters.port p).bytesRead = sat (s.counters.port p).bytesRead n ∧ t.bank p = s.bank p) ∧
      (t.counters.port p).windowReads = sat (s.counters.port p).windowReads 1 ∧ t.mem.cells = s.mem.cells ∧
      t.catalog = s.catalog ∧ t.blocks = s.blocks

/-- The burst of a read in flight that one run makes: with no bit of its granules flipped by its completion the read is
answered with the bytes of capture memory, and ends. The bit errors as the command's operands are log entry 5. -/
def Obligations.WindowBurstAnswersRead : Prop :=
  ∀ (s : State) (b : WindowBurst) (r : ReadInFlight) (k : ReadRun) (ks : List Strike), s.mem.busy = some (.window b) →
    b.addr + b.len ≤ 34359738368 → (s.bank b.port).reads.find? (fun x => x.id = b.read) = some r →
    r.pieces = [.run k] → b.piece = 0 → (∀ g ∈ granulesOf b.addr b.len, (strikeAll ks s).mem.flips g = 0) → b.len ≠ 0 →
    ∃ t, exec (.windowReadBurstDone ks) s = .next t ∧
      (t.port b.port).link =
        (s.port b.port).link ++ [.readData r.addr ((List.range b.len).map (fun i => Memory.read (b.addr + i) s.mem.cells))] ∧
      (t.bank b.port).reads = (s.bank b.port).reads.filter (fun x => x.id ≠ r.id) ∧
      (t.counters.port b.port).bytesRead = sat (s.counters.port b.port).bytesRead b.len ∧
      t.mem.cells = s.mem.cells ∧ t.catalog = s.catalog ∧ t.blocks = s.blocks ∧ t.faults = s.faults

/-- A window read not answered in time: an error response, the flag, the count and the fault; the read ends. That the
command may come at any age of the read is log entry 4, that it has no effect for a read not in flight log entry 1, and
that the response stands on the link after the interrupt message of the fault's notice log entry 21: the model's
choices. -/
def Obligations.ReadTimesOut : Prop :=
  ∀ (p : Port) (n : Nat) (s : State),
    (∀ r, (s.bank p).reads[n]? = some r →
      ∃ t, exec (.readTimeout p n) s = .next t ∧ (t.port p).link.getLast? = some (.readError r.addr) ∧
        (t.port p).readTimeout = true ∧ (t.counters.port p).readTimeouts = sat (s.counters.port p).readTimeouts 1 ∧
        FaultReported s t (portFault p) .readTimeout r.addr ∧
        (t.bank p).reads = (s.bank p).reads.filter (fun x => x.id ≠ r.id) ∧
        (∀ i, (t.bank p).hold i = (s.bank p).hold i) ∧ t.bank p.other = s.bank p.other ∧
        t.mem.cells = s.mem.cells ∧ t.catalog = s.catalog ∧ t.blocks = s.blocks ∧ t.engine = s.engine ∧
        t.writer = s.writer ∧ PortKept { s.port p with readTimeout := true } (t.port p) ∧
        PortKept (s.port p.other) (t.port p.other)) ∧
    ((s.bank p).reads[n]? = none → exec (.readTimeout p n) s = .next s)

/-- A write to a port's aperture is discarded, flagged, counted and logged, wherever it falls. That its response stands on
the link after the interrupt message of the fault's notice is log entry 21. -/
def Obligations.ApertureWriteIsDiscarded : Prop :=
  ∀ (p : Port) (a : Nat) (bytes : List Byte) (s : State), a < 68719476736 → 1 ≤ bytes.length → bytes.length ≤ 256 →
    ∃ t, exec (.apertureWrite p a bytes) s = .next t ∧ (∀ x, Memory.read x t.mem.cells = Memory.read x s.mem.cells) ∧
      (t.port p).writeViolation = true ∧
      (t.counters.port p).writeViolations = sat (s.counters.port p).writeViolations 1 ∧
      FaultReported s t (portFault p) .writeViolation a ∧
      ((s.port p).writeErrorEnable = true → (t.port p).link.getLast? = some (.apertureError a)) ∧
      ((s.port p).writeErrorEnable = false → (t.port p).link.getLast? = some (.apertureAck a)) ∧
      t.apartFromNotices =
        (countPort p (fun c => { c with writeViolations := sat c.writeViolations 1 }) s).apartFromNotices ∧
      PortKept { s.port p with writeViolation := true } (t.port p) ∧ PortKept (s.port p.other) (t.port p.other)

/-- The expiry of a hold: its slot becomes FREE, HOLD_EXPIRED goes to its port, and the expiry is counted. That the command
may come whatever time remains is log entry 4, and that it has no effect for a slot with no timer running log entry 1: the
model's choices. -/
def Obligations.HoldExpires : Prop :=
  ∀ (p : Port) (i : Fin 16) (s : State),
    (∀ h, (s.bank p).hold i = some h → h.interval ≠ 0 →
      ∃ t, exec (.holdExpiry p i) s = .next t ∧ (t.bank p).hold i = none ∧
        (∀ j, j ≠ i → (t.bank p).hold j = (s.bank p).hold j) ∧ (t.bank p).tagCounter = (s.bank p).tagCounter ∧
        (t.bank p).reads = (s.bank p).reads ∧ t.bank p.other = s.bank p.other ∧
        t.counters.holds = { s.counters.holds with expired := sat s.counters.holds.expired 1 } ∧
        Notified s t p .holdExpired [⟨0, 1, i.val⟩, ⟨2, 2, h.tag.toNat⟩] ∧
        (s.writer.state = .starved → s.writer.waiting = some .takeBlock → t.writer.offered = true) ∧
        t.mem = s.mem ∧ t.catalog = s.catalog ∧ t.blocks = s.blocks ∧ t.faults = s.faults ∧
        t.port p.other = s.port p.other) ∧
    (((s.bank p).hold i = none ∨ ∃ h, (s.bank p).hold i = some h ∧ h.interval = 0) →
      exec (.holdExpiry p i) s = .next s)

/-! ## Port units -/

/-- The port unit takes the entry at its request head when the queue is not empty, more than eight completion slots are
free, and neither a request in hand nor a held completion stands: a sound request is passed to its block; an unknown
code or a non-zero fixed byte is answered and logged by the port unit itself. The model's choices: that a malformed ARM or
DISARM, whose refusals R190 excepts from the all-zero payload, has one here (log entry 50), and that the command has no
effect when the port unit cannot take (log entry 1). -/
def Obligations.RequestIsTaken : Prop :=
  ∀ (p : Port) (s : State),
    ((s.port p).reqHead ≠ (s.port p).reqTail → 8 < (s.port p).free → (s.port p).inHand = none → (s.port p).held = none →
      let entry := (s.port p).reqSlots.get (s.port p).reqHead
      let tag := BitVec.ofNat 16 (fieldAt entry 2 2)
      let refusal (status detail : Nat) : Completion :=
        { code := fieldAt entry 0 1, tag := tag, status := status, detail := detail, payload := [], generation := none }
      ∃ t, exec (.requestTake p) s = .next t ∧ (t.port p).reqHead = (s.port p).reqHead + 1 ∧
        (t.counters.port p).requestsTaken = sat (s.counters.port p).requestsTaken 1 ∧
        (∀ q, checkEntry entry = .request q →
          (t.port p).inHand = some { code := fieldAt entry 0 1, tag := tag } ∧
          t.passed = s.passed ++ [{ port := p, tag := tag, request := q, live := true }] ∧ t.faults = s.faults) ∧
        (checkEntry entry = .unknown →
          t.passed = s.passed ∧ FaultReported s t (portFault p) .unknownRequest (fieldAt entry 0 1) ∧
          Posted (s.port p) (t.port p) (completionSlot (refusal 16 0) t)) ∧
        (∀ off, checkEntry entry = .malformed off →
          t.passed = s.passed ∧ FaultReported s t (portFault p) .malformed off ∧
          Posted (s.port p) (t.port p) (completionSlot (refusal 17 off) t)) ∧
        SameBlocks { s with passed := t.passed } t) ∧
    (((s.port p).reqHead = (s.port p).reqTail ∨ (s.port p).free ≤ 8 ∨ (s.port p).inHand ≠ none ∨ (s.port p).held ≠ none) →
      exec (.requestTake p) s = .next s)

/-- Writes of the request tail, the port control and the port status: a legal tail moves the tail, an illegal one is a
write violation and changes no index; the control's low bits are the three enables; a one clears a status flag (the
notices-missed flag, which a notice can set again in the same step, is not stated). -/
def Obligations.PortRegistersAreWritten : Prop :=
  ∀ (p : Port) (v : BitVec 32) (s : State),
    (∀ h : v.toNat < 32, ∃ t, exec (.requestTailWrite p v) s = .next t ∧
      PortKept { s.port p with reqTail := ⟨v.toNat, h⟩ } (t.port p) ∧ PortKept (s.port p.other) (t.port p.other) ∧
      t.apartFromArchive = s.apartFromArchive) ∧
    (32 ≤ v.toNat → ∃ t, exec (.requestTailWrite p v) s = .next t ∧
      PortKept { s.port p with writeViolation := true } (t.port p) ∧ PortKept (s.port p.other) (t.port p.other) ∧
      t.apartFromArchive =
        (countPort p (fun c => { c with writeViolations := sat c.writeViolations 1 }) s).apartFromArchive) ∧
    (∃ t, exec (.portControlWrite p v) s = .next t ∧
      PortKept
        { s.port p with
          irqEnable := v.getLsbD 0, writeErrorEnable := v.getLsbD 1, conflictErrorEnable := v.getLsbD 2 } (t.port p) ∧
      PortKept (s.port p.other) (t.port p.other) ∧ t.apartFromArchive = s.apartFromArchive) ∧
    (∃ t, exec (.portStatusWrite p v) s = .next t ∧
      PortKept
        { s.port p with
          unmappedRead := (s.port p).unmappedRead && !v.getLsbD 0
          writeViolation := (s.port p).writeViolation && !v.getLsbD 1
          decodeConflict := (s.port p).decodeConflict && !v.getLsbD 2
          readTimeout := (s.port p).readTimeout && !v.getLsbD 3 } (t.port p) ∧
      PortKept (s.port p.other) (t.port p.other) ∧ t.apartFromArchive = s.apartFromArchive)

/-- A write of the completion head: a value up to 63 that does not pass the tail moves the head, and a held completion
then takes a freed slot; any other value is a write violation and moves nothing. -/
def Obligations.CompletionHeadIsWritten : Prop :=
  ∀ (p : Port) (v : BitVec 32) (s : State),
    (∀ hv : v.toNat < 64, ((⟨v.toNat, hv⟩ : Fin 64) - (s.port p).cplHead).val ≤ (s.port p).entries →
      ∃ t, exec (.completionHeadWrite p v) s = .next t ∧ (t.port p).cplHead = ⟨v.toNat, hv⟩ ∧
        QueueKept { s.port p with cplHead := ⟨v.toNat, hv⟩ } (t.port p) ∧
        (t.port p).apartFromNotices =
          { s.port p with cplHead := ⟨v.toNat, hv⟩, held := (t.port p).held }.apartFromNotices ∧
        ((s.port p).held = none → (t.port p).held = none) ∧
        (∀ c, (s.port p).held = some c → 0 < ({ s.port p with cplHead := ⟨v.toNat, hv⟩ } : PortUnit).free →
          (t.port p).held = none ∧
            Posted { s.port p with cplHead := ⟨v.toNat, hv⟩ } (t.port p) (completionSlot c t)) ∧
        PortKept (s.port p.other) (t.port p.other) ∧ t.apartFromArchive = s.apartFromArchive) ∧
    ((∀ hv : v.toNat < 64, (s.port p).entries < ((⟨v.toNat, hv⟩ : Fin 64) - (s.port p).cplHead).val) →
      ∃ t, exec (.completionHeadWrite p v) s = .next t ∧
        PortKept { s.port p with writeViolation := true } (t.port p) ∧ PortKept (s.port p.other) (t.port p.other) ∧
        t.apartFromArchive =
          (countPort p (fun c => { c with writeViolations := sat c.writeViolations 1 }) s).apartFromArchive)

/-- A control-window write of a whole request slot changes that slot only; one of the interrupt data or address changes
that register only. -/
def Obligations.ControlWindowIsWritten : Prop :=
  ∀ (p : Port) (i : Fin 32) (bytes : List Byte) (s : State),
    (bytes.length = 64 → ((s.port p).reqSlots.get i).length = 64 →
      ∃ t, exec (.controlWindowWrite p (0x1000 + 64 * i.val) bytes) s = .next t ∧
        PortKept { s.port p with reqSlots := (s.port p).reqSlots.set i.val bytes i.isLt } (t.port p) ∧
        PortKept (s.port p.other) (t.port p.other) ∧ t.apartFromArchive = s.apartFromArchive) ∧
    (bytes.length = 4 →
      ∃ t, exec (.controlWindowWrite p 0x18 bytes) s = .next t ∧
        PortKept { s.port p with irqData := BitVec.ofNat 32 (leValue bytes) } (t.port p) ∧
        PortKept (s.port p.other) (t.port p.other) ∧ t.apartFromArchive = s.apartFromArchive) ∧
    (bytes.length = 8 →
      ∃ t, exec (.controlWindowWrite p 0x20 bytes) s = .next t ∧
        PortKept { s.port p with irqAddr := BitVec.ofNat 64 (leValue bytes) } (t.port p) ∧
        PortKept (s.port p.other) (t.port p.other) ∧ t.apartFromArchive = s.apartFromArchive)

/-- An error response to an interrupt message is logged with the interrupt address, and nothing else is lost. That the
address is the one that stands when the error comes is log entry 47, and that an error with no message issued has no effect
log entries 1 and 29: the model's choices. -/
def Obligations.InterruptWriteErrorIsLogged : Prop :=
  ∀ (p : Port) (s : State),
    (0 < (s.port p).messages →
      ∃ t, exec (.interruptWriteError p) s = .next t ∧
        FaultReported s t (portFault p) .interruptWriteError (s.port p).irqAddr.toNat ∧
        t.apartFromNotices = s.apartFromNotices ∧ (∀ q, PortKept (s.port q) (t.port q))) ∧
    ((s.port p).messages = 0 → exec (.interruptWriteError p) s = .next s)

/-- A port reset: the port unit is the one of R176 (`PortUnit.afterReset`: the indices, the request in hand, the held
completion, the pending-notice set, interrupt outstanding, the flags and the enables cleared; slot bytes, interrupt address
and data kept), but for the entries and notices that what follows on the other port's binding writes; the port's holds are
released and its reads abandoned; its passed requests and the session unit's request in progress lose their completions; a
binding to it ends, and one to the other port is kept; a part reset of the port that waits for its engine ends (log entry
46), and the other port is told. That the entry for a failed write that waits to be logged is among those written after the
emptying is log entry 12, the model's choice. -/
def Obligations.PortIsReset : Prop :=
  ∀ (p : Port) (s : State),
    let waits : Prop := s.engine.bound = some p ∧ ∃ u, s.engine.ending = some (.partReset u)
    (waits → ∀ r, s.session.inProgress = some (.resetPart r) → r.port = p) →
    ∃ t, exec (.portReset p) s = .next t ∧ PortKept (s.port p).afterReset (t.port p) ∧
      (s.engine.bound ≠ some p.other → (s.engine.bound = some p → s.engine.failed = none) →
        t.port p = (s.port p).afterReset) ∧
      (t.port p).reqHead = 0 ∧ (t.port p).reqTail = 0 ∧
      (t.port p).cplHead = 0 ∧ (t.port p).inHand = none ∧ (t.port p).held = none ∧
      (t.port p).irqEnable = false ∧ (t.port p).writeErrorEnable = false ∧ (t.port p).conflictErrorEnable = false ∧
      (t.port p).unmappedRead = false ∧ (t.port p).writeViolation = false ∧ (t.port p).decodeConflict = false ∧
      (t.port p).readTimeout = false ∧ (t.port p).irqAddr = (s.port p).irqAddr ∧ (t.port p).irqData = (s.port p).irqData ∧
      (t.port p).reqSlots = (s.port p).reqSlots ∧ PortKept (s.port p.other) (t.port p.other) ∧
      (∀ i, (t.bank p).hold i = none) ∧ (t.bank p).reads = [] ∧ (t.bank p).tagCounter = (s.bank p).tagCounter ∧
      t.bank p.other = s.bank p.other ∧ (∀ r ∈ t.passed, r.port = p → r.live = false) ∧
      (∀ r, s.session.inProgress = some (.abort r) → t.session.inProgress = some (.abort (r.disown p))) ∧
      (∀ r, s.session.inProgress = some (.resetPart r) →
        (¬ waits → t.session.inProgress = some (.resetPart (r.disown p))) ∧
          (waits → t.session.inProgress = none ∧ t.engine = Engine.reset ∧ Notified s t p.other .partReset [])) ∧
      (s.engine.bound = some p → t.engine.bound = none) ∧ (s.engine.bound ≠ some p → t.engine.bound = s.engine.bound) ∧
      t.mem.cells = s.mem.cells ∧ t.blocks = s.blocks ∧ t.intake = s.intake

/-! ## Queries -/

/-- DESCRIBE, QUERY_SPAN, READ_FAULTS and QUERY_HOLDS answer OK with what stands and change nothing but their port unit. That
the fields of an absent last-reclaim record are zero is log entry 53, and that the window base of a hold without a window is
0 log entry 54 (DESIGN CHOICE). -/
def Obligations.QueriesAnswerAndChangeNothing : Prop :=
  ∀ (p : Port) (s : State) (r : Passed),
    (Waits s p 0x01 r → ∃ t, exec (.describe p) s = .next t ∧ Replied s t r .ok 0 (describePayload s) ∧
      SameBlocks (s.without p 0x01) t ∧ t.counters = s.counters ∧ t.faults = s.faults) ∧
    (Waits s p 0x02 r → ∃ t, exec (.querySpan p) s = .next t ∧ Replied s t r .ok 0 (spanPayload s) ∧
      SameBlocks (s.without p 0x02) t ∧ t.counters = s.counters ∧ t.faults = s.faults) ∧
    (Waits s p 0x29 r → ∃ t, exec (.readFaults p) s = .next t ∧
      Replied s t r .ok 0
        (recordFields (fun u => s.faults.records.get u) ++
          unitNumbers.map (fun u => ⟨102 + u.val, 1, (s.faults.masks.get u).toNat⟩)) ∧
      SameBlocks (s.without p 0x29) t ∧ t.counters = s.counters ∧ t.faults = s.faults) ∧
    (Waits s p 0x0B r → ∀ upper, r.request = .queryHolds upper →
      ∃ t, exec (.queryHolds p) s = .next t ∧
        Replied s t r .ok (s.bank p).tagCounter.toNat (groupPayload (s.bank p) upper) ∧
        SameBlocks (s.without p 0x0B) t ∧ t.counters = s.counters ∧ t.faults = s.faults)

/-- QUERY_RECORD and QUERY_MARKS: RANGE for 0, for FFFFFFFFh and above the tail; GONE below the head; else OK with the
descriptor or the marks of the entry. Nothing else changes. -/
def Obligations.RecordQueriesAnswer : Prop :=
  ∀ (p : Port) (s : State) (r : Passed) (n : Nat),
    (Waits s p 0x03 r → r.request = .queryRecord n →
      ∃ t, exec (.queryRecord p) s = .next t ∧ SameBlocks (s.without p 0x03) t ∧ t.counters = s.counters ∧
        t.faults = s.faults ∧
        ((n = 0 ∨ n = 4294967295) → Replied s t r .range 0 []) ∧
        (1 ≤ n → n < 4294967295 → n < s.catalog.head → Replied s t r .gone 0 []) ∧
        (1 ≤ n → n < 4294967295 → s.catalog.head ≤ n → s.catalog.tail < n → Replied s t r .range 0 []) ∧
        (∀ e, 1 ≤ n → n < 4294967295 → s.catalog.head ≤ n → n ≤ s.catalog.tail → s.catalog.find n = some e →
          Replied s t r .ok 0 e.descriptorFields)) ∧
    (Waits s p 0x04 r → r.request = .queryMarks n →
      ∃ t, exec (.queryMarks p) s = .next t ∧ SameBlocks (s.without p 0x04) t ∧ t.counters = s.counters ∧
        t.faults = s.faults ∧
        ((n = 0 ∨ n = 4294967295) → Replied s t r .range 0 []) ∧
        (1 ≤ n → n < 4294967295 → n < s.catalog.head → Replied s t r .gone 0 []) ∧
        (1 ≤ n → n < 4294967295 → s.catalog.head ≤ n → s.catalog.tail < n → Replied s t r .range 0 []) ∧
        (∀ e, 1 ≤ n → n < 4294967295 → s.catalog.head ≤ n → n ≤ s.catalog.tail → s.catalog.find n = some e →
          Replied s t r .ok 0 (marksPayload e)))

/-! ## Holds -/

/-- An accepted PLACE_HOLD takes the lowest FREE slot with the request's range, kind, interval and window, and the next
tag of the port's counter. -/
def Obligations.HoldIsPlaced : Prop :=
  ∀ (p : Port) (s : State) (r : Passed) (a : HoldArgs) (i : Fin 16), Waits s p 0x08 r → r.request = .placeHold a →
    placeStatus p a s = .ok → (s.bank p).hold i = none → (∀ j, j < i → (s.bank p).hold j ≠ none) →
    let tag := (s.bank p).tagCounter + 1
    ∃ t, exec (.placeHold p) s = .next t ∧ Replied s t r .ok 0 [⟨0, 1, i.val⟩, ⟨2, 2, tag.toNat⟩] ∧
      (t.bank p).hold i =
        some
          { tag := tag, kind := if a.kind = 0 then .firm else .yielding, first := a.first, last := a.last
            interval := a.interval, remaining := a.interval, ticks := 0, window := a.window } ∧
      (t.bank p).tagCounter = tag ∧ (∀ j, j ≠ i → (t.bank p).hold j = (s.bank p).hold j) ∧
      (t.bank p).reads = (s.bank p).reads ∧ t.bank p.other = s.bank p.other ∧
      t.counters = { s.counters with holds := { s.counters.holds with placed := sat s.counters.holds.placed 1 } } ∧
      t.catalog = s.catalog ∧ t.blocks = s.blocks ∧ t.mem = s.mem ∧ t.engine = s.engine ∧ t.writer = s.writer ∧
      t.faults = s.faults

/-- The checks of PLACE_HOLD in their order; a refusal leaves the holds and the tag counter unchanged and is counted. -/
def Obligations.HoldPlacementIsRefused : Prop :=
  ∀ (p : Port) (s : State) (r : Passed) (a : HoldArgs), Waits s p 0x08 r → r.request = .placeHold a →
    let legal :=
      1 ≤ a.first ∧ a.first ≤ a.last ∧ a.last ≤ 4294967294 ∧ a.last < a.first + 256 ∧ a.kind ≤ 1 ∧
        ∀ w, a.window = some w → w.legal = true
    let gone := a.first < s.catalog.head ∨ ∃ e ∈ s.catalog.range a.first a.last, e.state = .lost ∨ e.state = .retired
    let notSealed := s.catalog.tail < a.last ∨ ∃ e ∈ s.catalog.range a.first a.last, e.state = .opened
    let full := ∀ i, (s.bank p).hold i ≠ none
    ∃ t, exec (.placeHold p) s = .next t ∧
      (¬ legal → Replied s t r .range 0 []) ∧ (legal → gone → Replied s t r .gone 0 []) ∧
      (legal → ¬ gone → notSealed → Replied s t r .notSealed 0 []) ∧
      (legal → ¬ gone → ¬ notSealed → full → Replied s t r .noSlot 0 []) ∧
      (¬ legal ∨ gone ∨ notSealed ∨ full →
        t.bank p = s.bank p ∧ t.counters.holds = { s.counters.holds with refused := sat s.counters.holds.refused 1 } ∧
          SameBlocks (s.without p 0x08) t)

/-- RENEW_HOLD: RANGE above slot 15, UNKNOWN_HOLD for a FREE slot or another tag; else the time remaining is the interval
again and the timer restarts, with kind, range and window unchanged. -/
def Obligations.HoldIsRenewed : Prop :=
  ∀ (p : Port) (s : State) (r : Passed) (slot : Nat) (tag : BitVec 16), Waits s p 0x09 r →
    r.request = .renewHold slot tag →
    ∃ t, exec (.renewHold p) s = .next t ∧
      (15 < slot → Replied s t r .range 0 []) ∧
      (∀ i : Fin 16, i.val = slot → (∀ h, (s.bank p).hold i = some h → h.tag ≠ tag) → Replied s t r .unknownHold 0 []) ∧
      (15 < slot ∨ (∃ i : Fin 16, i.val = slot ∧ ∀ h, (s.bank p).hold i = some h → h.tag ≠ tag) →
        t.bank p = s.bank p ∧ t.counters.holds = { s.counters.holds with refused := sat s.counters.holds.refused 1 }) ∧
      (∀ (i : Fin 16) (h : Hold), i.val = slot → (s.bank p).hold i = some h → h.tag = tag →
        Replied s t r .ok 0 [] ∧ (t.bank p).hold i = some { h with remaining := h.interval, ticks := 0 } ∧
          (∀ j, j ≠ i → (t.bank p).hold j = (s.bank p).hold j) ∧
          t.counters.holds = { s.counters.holds with renewed := sat s.counters.holds.renewed 1 }) ∧
      (t.bank p).tagCounter = (s.bank p).tagCounter ∧ t.bank p.other = s.bank p.other ∧ t.catalog = s.catalog ∧
      t.blocks = s.blocks ∧ t.mem = s.mem ∧ t.writer = s.writer ∧ t.faults = s.faults

/-- RELEASE_HOLD: the same refusals; else the slot becomes FREE, and a writer starved for a block is offered one. -/
def Obligations.HoldIsReleased : Prop :=
  ∀ (p : Port) (s : State) (r : Passed) (slot : Nat) (tag : BitVec 16), Waits s p 0x0A r →
    r.request = .releaseHold slot tag →
    ∃ t, exec (.releaseHold p) s = .next t ∧
      (15 < slot → Replied s t r .range 0 []) ∧
      (∀ i : Fin 16, i.val = slot → (∀ h, (s.bank p).hold i = some h → h.tag ≠ tag) → Replied s t r .unknownHold 0 []) ∧
      (15 < slot ∨ (∃ i : Fin 16, i.val = slot ∧ ∀ h, (s.bank p).hold i = some h → h.tag ≠ tag) →
        t.bank p = s.bank p ∧ t.counters.holds = { s.counters.holds with refused := sat s.counters.holds.refused 1 }) ∧
      (∀ (i : Fin 16) (h : Hold), i.val = slot → (s.bank p).hold i = some h → h.tag = tag →
        Replied s t r .ok 0 [] ∧ (t.bank p).hold i = none ∧ (∀ j, j ≠ i → (t.bank p).hold j = (s.bank p).hold j) ∧
          t.counters.holds = { s.counters.holds with released := sat s.counters.holds.released 1 } ∧
          (s.writer.state = .starved → s.writer.waiting = some .takeBlock → t.writer.offered = true)) ∧
      (t.bank p).reads = (s.bank p).reads ∧ t.bank p.other = s.bank p.other ∧ t.catalog = s.catalog ∧
      t.blocks = s.blocks ∧ t.mem = s.mem ∧ t.faults = s.faults

/-! ## The engine's requests -/

/-- BIND_ARCHIVE: an unbound engine is bound to the port with an empty buffer list and the cursor skipped, waiting for a
buffer if it can start the entry there; the bound port is answered OK with no change, the other BOUND_ELSEWHERE. -/
def Obligations.ArchiveIsBound : Prop :=
  ∀ (p : Port) (s : State) (r : Passed), Waits s p 0x10 r →
    (s.engine.bound = none →
      let cur := s.catalog.skip s.engine.cursor
      ∃ t, exec (.bindArchive p) s = .next t ∧ Replied s t r .ok 0 [⟨0, 4, cur⟩] ∧
        t.engine =
          { s.engine with
            bound := some p, buffers := [], lowArmed := true, cursor := cur, sendPos := cur
            state := if (s.catalog.find cur).any s.startable then .waitBuffer else .idle } ∧
        SameBlocks { s.without p 0x10 with engine := t.engine } t ∧ t.counters = s.counters ∧ t.faults = s.faults) ∧
    (s.engine.bound = some p →
      ∃ t, exec (.bindArchive p) s = .next t ∧ Replied s t r .ok 0 [⟨0, 4, s.engine.cursor⟩] ∧
        SameBlocks (s.without p 0x10) t ∧ t.counters = s.counters ∧ t.faults = s.faults) ∧
    (s.engine.bound = some p.other →
      ∃ t, exec (.bindArchive p) s = .next t ∧ Replied s t r .boundElsewhere 0 [] ∧
        SameBlocks (s.without p 0x10) t ∧ t.counters = s.counters ∧ t.faults = s.faults)

/-- UNBIND_ARCHIVE: NOT_BOUND from a port that is not bound; with no write unanswered the binding ends, the buffers are
abandoned and their number answered; with writes unanswered the request waits for their answers, and met by a part reset
that waits it waits for the end of that (log entry 46). -/
def Obligations.ArchiveIsUnbound : Prop :=
  ∀ (p : Port) (s : State) (r : Passed), Waits s p 0x11 r →
    (s.engine.bound ≠ some p →
      ∃ t, exec (.unbindArchive p) s = .next t ∧ Replied s t r .notBound 0 [] ∧ t.engine = s.engine ∧
        t.session = s.session ∧ t.mem.cells = s.mem.cells) ∧
    (s.engine.bound = some p → (∀ u, s.engine.ending ≠ some (.partReset u)) → s.engine.issued = [] →
      ∃ t, exec (.unbindArchive p) s = .next t ∧ Answered s t r .ok 0 [⟨0, 1, s.engine.buffers.length⟩] ∧
        t.engine.bound = none ∧ t.engine.state = .unbound ∧ t.engine.buffers = [] ∧ t.engine.claim = none ∧
        t.engine.awaiting = [] ∧ t.engine.cursor = s.engine.cursor ∧ t.engine.sendPos = s.engine.cursor ∧
        (s.session.state = .draining → t.session.state = .stopped) ∧
        (s.session.state ≠ .draining → t.session.state = s.session.state) ∧ t.mem.cells = s.mem.cells ∧
        t.blocks = s.blocks ∧ t.intake = s.intake) ∧
    (s.engine.bound = some p →
      ((∀ u, s.engine.ending ≠ some (.partReset u)) ∧ s.engine.issued ≠ [] ∨
        ∃ u, s.engine.ending = some (.partReset u)) →
      ∃ t, exec (.unbindArchive p) s = .next t ∧
        ((∀ u, s.engine.ending ≠ some (.partReset u)) → t.engine.ending = some (.unbind r)) ∧
        ((∃ u, s.engine.ending = some (.partReset u)) → t.engine.ending = some (.partReset (some r))) ∧
        t.engine.bound = some p ∧ (∀ q, t.port q = s.port q) ∧ t.session = s.session ∧ t.mem.cells = s.mem.cells)

/-- SUPPLY_BUFFER: the checks in their order, and an accepted buffer at the end of the list. -/
def Obligations.BufferIsSupplied : Prop :=
  ∀ (p : Port) (s : State) (r : Passed) (addr : Addr64) (size : Nat), Waits s p 0x12 r →
    r.request = .supplyBuffer addr size →
    let ranged := 4096 ≤ size ∧ size ≤ 4194304 ∧ size % 4096 = 0 ∧ addr.toNat % 4096 = 0
    let refused : Status → Prop := fun st =>
      ∃ t, exec (.supplyBuffer p) s = .next t ∧ Replied s t r st 0 [] ∧ SameBlocks (s.without p 0x12) t ∧
        t.counters = s.counters
    (s.engine.bound ≠ some p → refused .notBound) ∧
    (s.engine.bound = some p → s.engine.state = .faulted → refused .faulted) ∧
    (s.engine.bound = some p → s.engine.state ≠ .faulted → ¬ ranged → refused .range) ∧
    (s.engine.bound = some p → s.engine.state ≠ .faulted → ranged → 64 ≤ s.engine.buffers.length → refused .listFull) ∧
    (s.engine.bound = some p → s.engine.state ≠ .faulted → ranged → s.engine.buffers.length < 64 →
      ∃ u t, exec (.supplyBuffer p) s = .next t ∧ FollowedByEngine u t ∧
        Answered s t r .ok 0 [⟨0, 1, s.engine.buffers.length + 1⟩] ∧
        u.engine.buffers = s.engine.buffers ++ [{ addr := addr, size := size }] ∧
        (s.engine.state = .waitBuffer → u.engine.state = .sending) ∧
        (s.engine.state ≠ .waitBuffer → u.engine.state = s.engine.state) ∧
        t.apartFromArchive = (s.without p 0x12).apartFromArchive)

/-! ## The aligner's requests -/

/-- ARM: BUSY out of RUNNING, WRONG_MODE in a continuous session, BUSY when not DISARMED; else the aligner enters ARMING
from the frame after the newest received, a change told for a later frame is superseded, and the writer is told. -/
def Obligations.AlignerIsArmed : Prop :=
  ∀ (p : Port) (s : State) (r : Passed), Waits s p 0x18 r →
    (s.session.state ≠ .running →
      ∃ t, exec (.arm p) s = .next t ∧ Replied s t r .busy 0 (alignerPayload s.aligner) ∧ t.aligner = s.aligner ∧
        t.writer = s.writer) ∧
    (s.session.state = .running → s.aligner.params.mode = .continuous →
      ∃ t, exec (.arm p) s = .next t ∧ Replied s t r .wrongMode 0 (alignerPayload s.aligner) ∧ t.aligner = s.aligner ∧
        t.writer = s.writer) ∧
    (s.session.state = .running → s.aligner.params.mode = .segmented → s.aligner.state ≠ .disarmed →
      ∃ t, exec (.arm p) s = .next t ∧ Replied s t r .busy 0 (alignerPayload s.aligner) ∧ t.aligner = s.aligner ∧
        t.writer = s.writer) ∧
    (s.session.state = .running → s.aligner.params.mode = .segmented → s.aligner.state = .disarmed →
      ∀ (frame : Option Nat) (next : Nat),
      (∀ n, s.aligner.newest = some n → frame = some (n + 1) ∧ next = n + 1) →
      (s.aligner.newest = none → frame = s.aligner.firstFrame ∧ next = s.aligner.firstFrame.getD 0) →
      let v : State :=
        { s.without p 0x18 with
          aligner := { s.aligner with state := .arming, armingFrame := frame, rejudge := true }
          writer :=
            { s.writer with
              changes := s.writer.changes.filter (fun c => decide (c.1 ≤ next)) ++ [(next, .toPretrigger)] } }
      ∃ t, exec (.arm p) s = .next t ∧
        FollowedByCapture (answer r .ok 0 (alignerPayload (settle v).aligner) (settle v)) t ∧
        Answered s t r .ok 0 (alignerPayload (settle v).aligner) ∧ t.mem.cells = s.mem.cells)

/-- DISARM: the refusals of ARM's first two checks; else in CAPTURING the aligner is to disarm after the seal, in HOLDOFF,
ARMING and ARMED it enters DISARMED, and a pending trigger is gone. -/
def Obligations.AlignerIsDisarmed : Prop :=
  ∀ (p : Port) (s : State) (r : Passed), Waits s p 0x19 r →
    (s.session.state ≠ .running →
      ∃ t, exec (.disarm p) s = .next t ∧ Replied s t r .busy 0 (alignerPayload s.aligner) ∧ t.aligner = s.aligner ∧
        t.writer = s.writer) ∧
    (s.session.state = .running → s.aligner.params.mode = .continuous →
      ∃ t, exec (.disarm p) s = .next t ∧ Replied s t r .wrongMode 0 (alignerPayload s.aligner) ∧ t.aligner = s.aligner ∧
        t.writer = s.writer) ∧
    (s.session.state = .running → s.aligner.params.mode = .segmented →
      ∃ v t, exec (.disarm p) s = .next t ∧
        FollowedByCapture
          (answer r .ok 0 (⟨1, 1, if s.aligner.state = .capturing then 1 else 0⟩ :: alignerPayload (settle v).aligner)
            (settle v)) t ∧
        Answered s t r .ok 0
          (⟨1, 1, if s.aligner.state = .capturing then 1 else 0⟩ :: alignerPayload (settle v).aligner) ∧
        v.aligner.pending = none ∧
        (s.aligner.state = .capturing → v.aligner.state = .capturing ∧ v.aligner.disarmAfterSeal = true) ∧
        (s.aligner.state = .holdoff ∨ s.aligner.state = .arming ∨ s.aligner.state = .armed → v.aligner.state = .disarmed) ∧
        (s.aligner.state = .arming ∨ s.aligner.state = .armed →
          v.aligner.handOver = none ∧ v.aligner.marks = []) ∧
        t.mem.cells = s.mem.cells)

/-- FORCE_TRIGGER: out of RUNNING and FINISHING its outcome is NO_SESSION and nothing is counted; in them it is counted as
forced and judged; the completion gives the stamped frame index, which is the newest received (with none received it is a
free value, log entry 8, and such a state is not stated here). -/
def Obligations.TriggerIsForced : Prop :=
  ∀ (p : Port) (s : State) (r : Passed) (n : Nat), Waits s p 0x1A r → s.aligner.newest = some n →
    (s.counting = false →
      ∃ v t, exec (.forceTrigger p) s = .next t ∧
        FollowedByCapture
          (answer r .ok 0 (⟨2, 1, 0⟩ :: ⟨24, 8, n⟩ :: alignerPayload (settle v).aligner) (settle v)) t ∧
        Answered s t r .ok 0 (⟨2, 1, 0⟩ :: ⟨24, 8, n⟩ :: alignerPayload (settle v).aligner) ∧
        v = s.without p 0x1A ∧ t.counters.trigger.forced = s.counters.trigger.forced) ∧
    (s.counting = true →
      ∃ o v t, exec (.forceTrigger p) s = .next t ∧
        FollowedByCapture
          (answer r .ok 0 (⟨2, 1, TrigOutcome.code o⟩ :: ⟨24, 8, n⟩ :: alignerPayload (settle v).aligner) (settle v)) t ∧
        Answered s t r .ok 0 (⟨2, 1, TrigOutcome.code o⟩ :: ⟨24, 8, n⟩ :: alignerPayload (settle v).aligner) ∧
        (o, v) =
          judge { frame := n, fine := 0, source := .main, stamp := .raw }
            (countTrigger (fun c => { c with forced := sat c.forced 1 }) (s.without p 0x1A)) ∧
        t.counters.trigger.forced = sat s.counters.trigger.forced 1 ∧ t.mem.cells = s.mem.cells)

/-! ## Sessions -/

/-- CONFIGURE: BUSY out of STOPPED; RANGE with the lowest illegal field; else the record is replaced and the generation
advances by one, from FFFFFFFFh to 1, and the completion shows the generation that the request produced, however long it
is held (log entry 44). -/
def Obligations.ConfigurationIsAccepted : Prop :=
  ∀ (p : Port) (s : State) (r : Passed) (c : RawConfig), Waits s p 0x20 r → r.request = .configure c →
    s.session.inProgress = none →
    let kept (t : State) : Prop := t.counters = s.counters ∧ t.faults = s.faults
    (s.session.state ≠ .stopped →
      ∃ t, exec (.configure p) s = .next t ∧ Replied s t r .busy 0 [] ∧ SameBlocks (s.without p 0x20) t ∧ kept t) ∧
    (s.session.state = .stopped → ∀ n, 1 ≤ n → n ≤ 20 → c.legal n = false → (∀ m, 1 ≤ m → m < n → c.legal m = true) →
      ∃ t, exec (.configure p) s = .next t ∧ Replied s t r .range n [] ∧ SameBlocks (s.without p 0x20) t ∧ kept t) ∧
    (s.session.state = .stopped → (∀ n, 1 ≤ n → n ≤ 20 → c.legal n = true) →
      let g : BitVec 32 := if s.session.generation = 0xFFFFFFFF then 1 else s.session.generation + 1
      ∃ t, exec (.configure p) s = .next t ∧ RepliedBy s t r { r.completion .ok 0 [] with generation := some g } ∧
        t.session = { s.session with config := some c.record, generation := g } ∧
        SameBlocks { s.without p 0x20 with session := t.session } t ∧ kept t)

/-- START: its checks in their order, and an accepted START: the session number advances, the totals are 0, and intake,
aligner, writer and arbiter take their copies of the configuration. With DISCARD the completion carries how many entries
were converted, and those entries, the archive-required SEALED DATA entries that no FIRM hold covers and that are not in
transfer, are LOST with no blocks; no other entry changes before the engine goes on. -/
def Obligations.SessionStarts : Prop :=
  ∀ (p : Port) (s : State) (r : Passed) (g : BitVec 32) (discard : Bool) (group : Option GroupInTransfer),
    Waits s p 0x21 r → r.request = .start g discard → s.session.inProgress = none →
    let refused : Status → Prop := fun st =>
      ∃ t, exec (.start p group) s = .next t ∧ Replied s t r st 0 [] ∧ SameBlocks (s.without p 0x21) t
    let session := if s.catalog.session = 0xFFFFFFFF then 1 else s.catalog.session + 1
    (s.mem.cal = .calibrating → refused .busy) ∧ (s.mem.cal = .failed → refused .memoryFailed) ∧
    (s.mem.cal = .ready → s.session.generation = 0 → refused .notConfigured) ∧
    (s.mem.cal = .ready → s.session.generation ≠ 0 → g ≠ s.session.generation → refused .stale) ∧
    (s.mem.cal = .ready → s.session.generation ≠ 0 → g = s.session.generation → s.session.state ≠ .stopped →
      refused .busy) ∧
    (s.mem.cal = .ready → s.session.generation ≠ 0 → g = s.session.generation → s.session.state = .stopped →
      ∀ c, s.session.config = some c →
      ∃ n v t, exec (.start p group) s = .next t ∧
        FollowedByCapture (answer r .ok 0 [⟨0, 4, session.toNat⟩, ⟨4, 4, n⟩] v) t ∧
        (discard = false → n = 0 ∧ v.catalog.entries = s.catalog.entries ∧ v.blocks = s.blocks ∧
          v.bank0 = s.bank0 ∧ v.bank1 = s.bank1) ∧
        (discard = true → s.catalog.Numbered →
          n = (s.catalog.entries.filter s.convertible).length ∧
          v.catalog.entries =
            s.catalog.entries.map
              (fun e => if s.convertible e then { e.mapData DataFields.dropBlocks with state := .lost } else e)) ∧
        Answered s t r .ok 0 [⟨0, 4, session.toNat⟩, ⟨4, 4, n⟩] ∧ t.catalog.session = session ∧
        t.session.state = .running ∧ t.session.totals = Totals.zero ∧ t.mem.order = c.order ∧
        t.intake.state = .accepting ∧ t.intake.items = [] ∧ t.intake.setup = c.setup ∧
        t.intake.frameSize = 2 * c.setup.length ∧ t.intake.expected = none ∧ t.intake.hiMark = c.hiMark ∧
        t.intake.loMark = c.loMark ∧
        (c.mode = .segmented → t.writer.state = .pretrigger ∧ t.aligner.state = .arming) ∧
        (c.mode = .continuous → t.writer.state = .recording ∧ t.aligner.state = .marking) ∧
        t.writer.openRec = none ∧ t.writer.chainFirst = none ∧ t.writer.params.pre = c.pre ∧
        t.writer.params.post = c.post ∧ t.writer.params.archReq = c.archReq ∧ t.aligner.params.holdoff = c.holdoff ∧
        t.aligner.marks = [] ∧ t.session.config = s.session.config ∧ t.mem.cells = s.mem.cells)

/-- STOP: BUSY in STOPPED; in FINISHING and DRAINING, and in RUNNING after a STOP already taken, the port joins the drain
set; in RUNNING a segmented writer that holds a record to complete (RECORDING, or PRETRIGGER with a trigger kept) makes the
session FINISHING; a continuous writer that is RECORDING with frames to write stays at work with the intake CLOSED; every
other writer ends the session's writing at once. There the aligner is DISARMED also where a hand-over stands, which R124
does not say of a hand-over for which no record is OPEN: log entry 16; and that the writer does not wait for a granted
burst is log entry 15. -/
def Obligations.SessionStops : Prop :=
  ∀ (p : Port) (s : State) (r : Passed), Waits s p 0x22 r → s.session.inProgress = none →
    let completes := s.writer.params.mode = .segmented ∧
      (s.writer.state = .recording ∨ s.writer.state = .pretrigger ∧ s.writer.handed ≠ none)
    let writes := s.writer.params.mode = .continuous ∧ s.writer.state = .recording ∧
      (s.mem.writerBurst ≠ none ∨ leadingFrames s.intake.items ≠ [])
    (s.session.state = .stopped →
      ∃ t, exec (.stop p) s = .next t ∧ Replied s t r .busy 0 [] ∧ SameBlocks (s.without p 0x22) t) ∧
    (s.session.state ≠ .stopped →
      ∃ v t, exec (.stop p) s = .next t ∧
        FollowedByCapture (answer r .ok 0 [⟨0, 1, v.session.state.code⟩, ⟨1, 1, bit v.session.stopTaken 0⟩] v) t ∧
        Answered s t r .ok 0 [⟨0, 1, v.session.state.code⟩, ⟨1, 1, bit v.session.stopTaken 0⟩] ∧
        v.session.drain0 = (s.session.drain0 || decide (p = .p0)) ∧
        v.session.drain1 = (s.session.drain1 || decide (p = .p1)) ∧
        (s.session.state ≠ .running ∨ s.session.stopTaken = true →
          { v with session := s.session } = s.without p 0x22 ∧ v.session.state = s.session.state) ∧
        (s.session.state = .running → s.session.stopTaken = false → completes →
          v.session.state = .finishing ∧ v.intake = s.intake ∧ v.writer = { s.writer with stopping := true } ∧
            (s.aligner.state = .capturing ∨ s.aligner.handOver ≠ none ∧ (s.aligner.state = .arming ∨ s.aligner.state = .armed) →
              v.aligner.state = s.aligner.state ∧ v.aligner.disarmAfterSeal = true)) ∧
        (s.session.state = .running → s.session.stopTaken = false → writes →
          v.session.state = .running ∧ v.session.stopTaken = true ∧ v.intake.state = .closed ∧
            v.intake.items = s.intake.items ∧ v.writer = { s.writer with stopping := true } ∧ v.mem = s.mem ∧
            (s.aligner.state = .marking → v.aligner.state = .marking)) ∧
        (s.session.state = .running → s.session.stopTaken = false → ¬ completes → ¬ writes →
          (v.session.state = .stopped ∨ v.session.state = .draining) ∧ v.writer.state = .idle ∧ v.writer.openRec = none ∧
            v.intake.state = .idle ∧ v.intake.items = [] ∧ v.aligner.state = .disarmed) ∧
        t.mem.cells = s.mem.cells)

/-- ABORT: BUSY in STOPPED; in DRAINING, and in RUNNING and FINISHING with no writer burst granted, the session is STOPPED
at once, and from DRAINING every port of the drain set is sent DRAIN_DONE; with a burst granted the completion waits for
it. -/
def Obligations.SessionAborts : Prop :=
  ∀ (p : Port) (s : State) (r : Passed), Waits s p 0x23 r → s.session.inProgress = none →
    (s.session.state = .stopped →
      ∃ t, exec (.abort p) s = .next t ∧ Replied s t r .busy 0 [] ∧ SameBlocks (s.without p 0x23) t) ∧
    (s.session.state = .draining →
      ∃ t, exec (.abort p) s = .next t ∧ Answered s t r .ok 0 [] ∧ t.session.state = .stopped ∧
        t.session.drain0 = false ∧ t.session.drain1 = false ∧ t.session.drainDue = none ∧
        (s.session.drain0 = true → Notified s t .p0 .drainDone (drainPayload { unbound := false, aborted := true } s)) ∧
        (s.session.drain1 = true → Notified s t .p1 .drainDone (drainPayload { unbound := false, aborted := true } s)) ∧
        t.engine = s.engine ∧ t.mem = s.mem ∧ t.blocks = s.blocks) ∧
    (s.session.state = .running ∨ s.session.state = .finishing → (∀ b, s.mem.busy ≠ some (.writer b)) →
      ∃ t, exec (.abort p) s = .next t ∧ Answered s t r .ok 0 [] ∧ t.session.state = .stopped ∧
        t.session.inProgress = none ∧ t.writer.state = .idle ∧ t.writer.openRec = none ∧ t.intake.state = .idle ∧
        t.intake.items = [] ∧ t.intake.urgent = false ∧ t.aligner.state = .disarmed ∧
        t.session.totals.dropped = sat s.session.totals.dropped (frameCount s.intake.items) ∧
        t.session.totals.written = s.session.totals.written ∧ t.mem.cells = s.mem.cells) ∧
    (s.session.state = .running ∨ s.session.state = .finishing → ∀ b, s.mem.busy = some (.writer b) →
      ∃ t, exec (.abort p) s = .next t ∧ t.session.inProgress = some (.abort r) ∧
        t.intake.state = .idle ∧ t.mem.cells = s.mem.cells ∧ (t.port p).inHand = (s.port p).inHand)

/-- RESET_PART: its checks in their order; accepted with nothing to wait for (no archive write unanswered, and of a bound
engine no archive burst granted: log entry 38) it empties the catalog, advances the epoch, frees every block that is
neither FAULTY nor suspect, clears the counters and the engine, tells the other port and answers; else it waits. -/
def Obligations.PartIsReset : Prop :=
  ∀ (p : Port) (s : State) (r : Passed), Waits s p 0x24 r → s.session.inProgress = none →
    let heldAny := ∃ q i, (s.bank q).hold i ≠ none
    let burst := s.engine.bound ≠ none ∧ ∃ b d, s.mem.busy = some (.archive b d)
    let refused : Status → Prop := fun st =>
      ∃ t, exec (.resetPart p) s = .next t ∧ Replied s t r st 0 [] ∧ SameBlocks (s.without p 0x24) t
    (s.session.state ≠ .stopped → refused .busy) ∧
    (s.session.state = .stopped → heldAny → refused .held) ∧
    (s.session.state = .stopped → ¬ heldAny → s.engine.bound = some p.other → refused .boundElsewhere) ∧
    (s.session.state = .stopped → ¬ heldAny → s.engine.bound ≠ some p.other → s.engine.issued = [] → ¬ burst →
      s.engine.ending = none →
      ∃ t, exec (.resetPart p) s = .next t ∧ Answered s t r .ok 0 [] ∧
        t.catalog.entries = [] ∧ t.catalog.next = 1 ∧ t.catalog.epoch = s.catalog.epoch + 1 ∧ t.catalog.session = 0 ∧
        (∀ b, b < 8192 → (s.blocks.get b).state ≠ .faulty → (s.blocks.get b).suspect = false →
          t.blocks.get b = { state := .free, next := none, owner := none, held := 0, suspect := false } ∧
            b ∈ t.blocks.free) ∧
        (∀ b, b < 8192 → (s.blocks.get b).state = .faulty → (t.blocks.get b).state = .faulty ∧ b ∉ t.blocks.free) ∧
        t.blocks.last = none ∧ t.engine = Engine.reset ∧ t.counters.intake = IntakeCounters.zero ∧
        t.counters.trigger = TriggerCounters.zero ∧ t.counters.catalog = CatalogCounters.zero ∧
        t.counters.archive = ArchiveCounters.zero ∧ t.counters.holds = HoldCounters.zero ∧
        t.session.totals = Totals.zero ∧ t.session.config = s.session.config ∧
        t.session.generation = s.session.generation ∧ t.session.inProgress = none ∧
        Notified s t p.other .partReset [] ∧ (∀ q, (t.bank q).tagCounter = (s.bank q).tagCounter) ∧
        t.mem.cells = s.mem.cells ∧ t.intake = s.intake) ∧
    (s.session.state = .stopped → ¬ heldAny → s.engine.bound ≠ some p.other → (s.engine.issued ≠ [] ∨ burst) →
      ∃ t, exec (.resetPart p) s = .next t ∧ t.catalog.entries = [] ∧
        t.engine.ending = some (.partReset (s.engine.ending.bind Ending.unbinding)) ∧
        t.session.inProgress = some (.resetPart r) ∧ t.engine.issued = s.engine.issued ∧
        (∀ q, (t.port q).inHand = (s.port q).inHand))

/-! ## Counters and faults -/

/-- READ_COUNTERS answers a group as it stands, and with CLEAR sets that group's counters to 0, but not the session
totals; CLEAR_FAULTS answers the named records as they stood and clears them. A group or unit that does not exist is
RANGE; that the RANGE of READ_COUNTERS carries detail 0 is the model's choice (log entry 49). -/
def Obligations.CountersAndFaultsAreCleared : Prop :=
  ∀ (p : Port) (s : State) (r : Passed),
    (Waits s p 0x28 r → ∀ g clear, r.request = .readCounters g clear →
      ∃ t, exec (.readCounters p) s = .next t ∧ t.session = s.session ∧ t.faults = s.faults ∧
        (g ≤ 8 → Replied s t r .ok (g + if clear = true ∧ g ≠ 0 then 256 else 0) (groupCounters s g)) ∧
        (8 < g → Replied s t r .range 0 []) ∧
        ((clear = false ∨ g = 0 ∨ 8 < g) → t.counters = s.counters) ∧
        (clear = true →
          (g = 1 → t.counters = { s.counters with intake := IntakeCounters.zero }) ∧
          (g = 2 → t.counters = { s.counters with trigger := TriggerCounters.zero }) ∧
          (g = 3 → t.counters = { s.counters with catalog := CatalogCounters.zero }) ∧
          (g = 4 → t.counters = { s.counters with archive := ArchiveCounters.zero }) ∧
          (g = 5 → t.counters = { s.counters with holds := HoldCounters.zero }) ∧
          (g = 6 → t.counters = { s.counters with port0 := PortCounters.zero }) ∧
          (g = 7 → t.counters = { s.counters with port1 := PortCounters.zero }) ∧
          (g = 8 → t.counters = { s.counters with memory := MemoryCounters.zero })) ∧
        SameBlocks (s.without p 0x28) t) ∧
    (Waits s p 0x2A r → ∀ units, r.request = .clearFaults units →
      ∃ t, exec (.clearFaults p) s = .next t ∧ t.faults.masks = s.faults.masks ∧ t.counters = s.counters ∧
        (units.toNat < 64 →
          Replied s t r .ok 0
              (recordFields (fun u => if units.getLsbD u.val then s.faults.records.get u else FaultRecord.clear)) ∧
            ∀ u, t.faults.records.get u = if units.getLsbD u.val then FaultRecord.clear else s.faults.records.get u) ∧
        (64 ≤ units.toNat → Replied s t r .range 0 [] ∧ t.faults = s.faults) ∧
        SameBlocks (s.without p 0x2A) t)

/-- SET_FAULT_ENABLE replaces one unit's mask; a unit that does not exist, or a kind that the unit does not have, is
RANGE and changes no mask. No fault record changes, and a report taken after it is judged by the masks it leaves. -/
def Obligations.FaultMaskIsSet : Prop :=
  ∀ (p : Port) (s : State) (r : Passed) (u : Nat) (mask : BitVec 8), Waits s p 0x2B r →
    r.request = .setFaultEnable u mask →
    let kinds : Nat := [3, 4, 2, 5, 8, 8].getD u 0
    ∃ t, exec (.setFaultEnable p) s = .next t ∧ t.faults.records = s.faults.records ∧ t.counters = s.counters ∧
      (6 ≤ u ∨ 2 ^ kinds ≤ mask.toNat → Replied s t r .range 0 [] ∧ t.faults = s.faults) ∧
      (∀ h : u < 6, mask.toNat < 2 ^ kinds →
        Replied s t r .ok 0 [⟨0, 1, (s.faults.masks.get ⟨u, h⟩).toNat⟩, ⟨1, 1, mask.toNat⟩] ∧
          t.faults.masks.get ⟨u, h⟩ = mask ∧ ∀ v, v ≠ ⟨u, h⟩ → t.faults.masks.get v = s.faults.masks.get v) ∧
      SameBlocks (s.without p 0x2B) t ∧ ∀ v k d, FaultReported t (logFault v k d t) v k d

/-- A fault report: nothing for a kind not enabled; a clear record is filled and FAULT_LOGGED goes to both ports; a valid
one keeps its fault and takes its overflow. -/
def Obligations.FaultIsReported : Prop :=
  ∀ (u : FaultUnit) (k : FaultKind) (d : Nat) (s : State),
    FaultReported s (logFault u k d s) u k d ∧ SameBlocks s (logFault u k d s) ∧
    (s.faults.enabled u k = false → logFault u k d s = s) ∧
    (s.faults.enabled u k = true → (s.faults.records.get u.idx).valid = true →
      ∀ p, (logFault u k d s).port p = s.port p) ∧
    (s.faults.enabled u k = true → (s.faults.records.get u.idx).valid = false →
      ∀ p, Notified s (logFault u k d s) p .faultLogged
        [⟨0, 1, u.idx.val⟩, ⟨1, 1, k.code⟩, ⟨8, 8, d⟩, ⟨16, 8, s.faults.newest⟩])
end

