-- ==== Sys2Proof/Laws/State.lean ====
section
/-! SUPPORT. One lemma per field of State per update: what the update leaves, and the field it changes. Later proofs
cite these and unfold no record update. -/

namespace Sys2Proof.Laws

open Sys2Proof.Machine

/-! ## Ports and banks -/

@[simp] theorem setPort_catalog (p : Port) (u : PortUnit) (s : State) : (s.setPort p u).catalog = s.catalog := by cases p <;> rfl
@[simp] theorem setPort_blocks (p : Port) (u : PortUnit) (s : State) : (s.setPort p u).blocks = s.blocks := by cases p <;> rfl
@[simp] theorem setPort_bank0 (p : Port) (u : PortUnit) (s : State) : (s.setPort p u).bank0 = s.bank0 := by cases p <;> rfl
@[simp] theorem setPort_bank1 (p : Port) (u : PortUnit) (s : State) : (s.setPort p u).bank1 = s.bank1 := by cases p <;> rfl
@[simp] theorem setPort_engine (p : Port) (u : PortUnit) (s : State) : (s.setPort p u).engine = s.engine := by cases p <;> rfl
@[simp] theorem setPort_writer (p : Port) (u : PortUnit) (s : State) : (s.setPort p u).writer = s.writer := by cases p <;> rfl
@[simp] theorem setPort_aligner (p : Port) (u : PortUnit) (s : State) : (s.setPort p u).aligner = s.aligner := by cases p <;> rfl
@[simp] theorem setPort_intake (p : Port) (u : PortUnit) (s : State) : (s.setPort p u).intake = s.intake := by cases p <;> rfl
@[simp] theorem setPort_mem (p : Port) (u : PortUnit) (s : State) : (s.setPort p u).mem = s.mem := by cases p <;> rfl
@[simp] theorem setPort_session (p : Port) (u : PortUnit) (s : State) : (s.setPort p u).session = s.session := by cases p <;> rfl
@[simp] theorem setPort_counters (p : Port) (u : PortUnit) (s : State) : (s.setPort p u).counters = s.counters := by cases p <;> rfl
@[simp] theorem setPort_faults (p : Port) (u : PortUnit) (s : State) : (s.setPort p u).faults = s.faults := by cases p <;> rfl
@[simp] theorem setPort_passed (p : Port) (u : PortUnit) (s : State) : (s.setPort p u).passed = s.passed := by cases p <;> rfl
@[simp] theorem setPort_freeCount (p : Port) (u : PortUnit) (s : State) : (s.setPort p u).freeCount = s.freeCount := by cases p <;> rfl
@[simp] theorem setPort_pending (p : Port) (u : PortUnit) (s : State) : (s.setPort p u).pending = s.pending := by cases p <;> rfl
@[simp] theorem setPort_bank (p q : Port) (u : PortUnit) (s : State) : (s.setPort p u).bank q = s.bank q := by cases p <;> cases q <;> rfl
@[simp] theorem setPort_port (p : Port) (u : PortUnit) (s : State) : (s.setPort p u).port p = u := by cases p <;> rfl
theorem setPort_port_ite (p q : Port) (u : PortUnit) (s : State) :
    (s.setPort p u).port q = if q = p then u else s.port q := by cases p <;> cases q <;> rfl
@[simp] theorem setPort_self (p : Port) (s : State) : s.setPort p (s.port p) = s := by cases p <;> rfl
@[simp] theorem setPort_setPort (p : Port) (u v : PortUnit) (s : State) : (s.setPort p u).setPort p v = s.setPort p v := by
  cases p <;> rfl
@[simp] theorem setBank_catalog (p : Port) (b : HoldBank) (s : State) : (s.setBank p b).catalog = s.catalog := by cases p <;> rfl
@[simp] theorem setBank_blocks (p : Port) (b : HoldBank) (s : State) : (s.setBank p b).blocks = s.blocks := by cases p <;> rfl
@[simp] theorem setBank_engine (p : Port) (b : HoldBank) (s : State) : (s.setBank p b).engine = s.engine := by cases p <;> rfl
@[simp] theorem setBank_writer (p : Port) (b : HoldBank) (s : State) : (s.setBank p b).writer = s.writer := by cases p <;> rfl
@[simp] theorem setBank_aligner (p : Port) (b : HoldBank) (s : State) : (s.setBank p b).aligner = s.aligner := by cases p <;> rfl
@[simp] theorem setBank_intake (p : Port) (b : HoldBank) (s : State) : (s.setBank p b).intake = s.intake := by cases p <;> rfl
@[simp] theorem setBank_mem (p : Port) (b : HoldBank) (s : State) : (s.setBank p b).mem = s.mem := by cases p <;> rfl
@[simp] theorem setBank_session (p : Port) (b : HoldBank) (s : State) : (s.setBank p b).session = s.session := by cases p <;> rfl
@[simp] theorem setBank_port0 (p : Port) (b : HoldBank) (s : State) : (s.setBank p b).port0 = s.port0 := by cases p <;> rfl
@[simp] theorem setBank_port1 (p : Port) (b : HoldBank) (s : State) : (s.setBank p b).port1 = s.port1 := by cases p <;> rfl
@[simp] theorem setBank_counters (p : Port) (b : HoldBank) (s : State) : (s.setBank p b).counters = s.counters := by cases p <;> rfl
@[simp] theorem setBank_faults (p : Port) (b : HoldBank) (s : State) : (s.setBank p b).faults = s.faults := by cases p <;> rfl
@[simp] theorem setBank_passed (p : Port) (b : HoldBank) (s : State) : (s.setBank p b).passed = s.passed := by cases p <;> rfl
@[simp] theorem setBank_freeCount (p : Port) (b : HoldBank) (s : State) : (s.setBank p b).freeCount = s.freeCount := by cases p <;> rfl
@[simp] theorem setBank_pending (p : Port) (b : HoldBank) (s : State) : (s.setBank p b).pending = s.pending := by cases p <;> rfl
@[simp] theorem setBank_port (p q : Port) (b : HoldBank) (s : State) : (s.setBank p b).port q = s.port q := by cases p <;> cases q <;> rfl
@[simp] theorem setBank_bank (p : Port) (b : HoldBank) (s : State) : (s.setBank p b).bank p = b := by cases p <;> rfl
theorem setBank_bank_ite (p q : Port) (b : HoldBank) (s : State) :
    (s.setBank p b).bank q = if q = p then b else s.bank q := by cases p <;> cases q <;> rfl
@[simp] theorem modifyPort_catalog (p : Port) (f : PortUnit → PortUnit) (s : State) : (modifyPort p f s).catalog = s.catalog := by cases p <;> rfl
@[simp] theorem modifyPort_blocks (p : Port) (f : PortUnit → PortUnit) (s : State) : (modifyPort p f s).blocks = s.blocks := by cases p <;> rfl
@[simp] theorem modifyPort_bank0 (p : Port) (f : PortUnit → PortUnit) (s : State) : (modifyPort p f s).bank0 = s.bank0 := by cases p <;> rfl
@[simp] theorem modifyPort_bank1 (p : Port) (f : PortUnit → PortUnit) (s : State) : (modifyPort p f s).bank1 = s.bank1 := by cases p <;> rfl
@[simp] theorem modifyPort_engine (p : Port) (f : PortUnit → PortUnit) (s : State) : (modifyPort p f s).engine = s.engine := by cases p <;> rfl
@[simp] theorem modifyPort_writer (p : Port) (f : PortUnit → PortUnit) (s : State) : (modifyPort p f s).writer = s.writer := by cases p <;> rfl
@[simp] theorem modifyPort_aligner (p : Port) (f : PortUnit → PortUnit) (s : State) : (modifyPort p f s).aligner = s.aligner := by cases p <;> rfl
@[simp] theorem modifyPort_intake (p : Port) (f : PortUnit → PortUnit) (s : State) : (modifyPort p f s).intake = s.intake := by cases p <;> rfl
@[simp] theorem modifyPort_mem (p : Port) (f : PortUnit → PortUnit) (s : State) : (modifyPort p f s).mem = s.mem := by cases p <;> rfl
@[simp] theorem modifyPort_session (p : Port) (f : PortUnit → PortUnit) (s : State) : (modifyPort p f s).session = s.session := by cases p <;> rfl
@[simp] theorem modifyPort_counters (p : Port) (f : PortUnit → PortUnit) (s : State) : (modifyPort p f s).counters = s.counters := by cases p <;> rfl
@[simp] theorem modifyPort_faults (p : Port) (f : PortUnit → PortUnit) (s : State) : (modifyPort p f s).faults = s.faults := by cases p <;> rfl
@[simp] theorem modifyPort_passed (p : Port) (f : PortUnit → PortUnit) (s : State) : (modifyPort p f s).passed = s.passed := by cases p <;> rfl
@[simp] theorem modifyPort_freeCount (p : Port) (f : PortUnit → PortUnit) (s : State) : (modifyPort p f s).freeCount = s.freeCount := by cases p <;> rfl
@[simp] theorem modifyPort_pending (p : Port) (f : PortUnit → PortUnit) (s : State) : (modifyPort p f s).pending = s.pending := by cases p <;> rfl
@[simp] theorem modifyPort_port (p : Port) (f : PortUnit → PortUnit) (s : State) : (modifyPort p f s).port p = f (s.port p) := by
  cases p <;> rfl
theorem modifyPort_port_ite (p q : Port) (f : PortUnit → PortUnit) (s : State) :
    (modifyPort p f s).port q = if q = p then f (s.port p) else s.port q := by cases p <;> cases q <;> rfl
@[simp] theorem modifyPort_bank (p q : Port) (f : PortUnit → PortUnit) (s : State) : (modifyPort p f s).bank q = s.bank q := by
  cases p <;> cases q <;> rfl
@[simp] theorem modifyBank_catalog (p : Port) (f : HoldBank → HoldBank) (s : State) : (modifyBank p f s).catalog = s.catalog := by cases p <;> rfl
@[simp] theorem modifyBank_blocks (p : Port) (f : HoldBank → HoldBank) (s : State) : (modifyBank p f s).blocks = s.blocks := by cases p <;> rfl
@[simp] theorem modifyBank_engine (p : Port) (f : HoldBank → HoldBank) (s : State) : (modifyBank p f s).engine = s.engine := by cases p <;> rfl
@[simp] theorem modifyBank_writer (p : Port) (f : HoldBank → HoldBank) (s : State) : (modifyBank p f s).writer = s.writer := by cases p <;> rfl
@[simp] theorem modifyBank_aligner (p : Port) (f : HoldBank → HoldBank) (s : State) : (modifyBank p f s).aligner = s.aligner := by cases p <;> rfl
@[simp] theorem modifyBank_intake (p : Port) (f : HoldBank → HoldBank) (s : State) : (modifyBank p f s).intake = s.intake := by cases p <;> rfl
@[simp] theorem modifyBank_mem (p : Port) (f : HoldBank → HoldBank) (s : State) : (modifyBank p f s).mem = s.mem := by cases p <;> rfl
@[simp] theorem modifyBank_session (p : Port) (f : HoldBank → HoldBank) (s : State) : (modifyBank p f s).session = s.session := by cases p <;> rfl
@[simp] theorem modifyBank_port0 (p : Port) (f : HoldBank → HoldBank) (s : State) : (modifyBank p f s).port0 = s.port0 := by cases p <;> rfl
@[simp] theorem modifyBank_port1 (p : Port) (f : HoldBank → HoldBank) (s : State) : (modifyBank p f s).port1 = s.port1 := by cases p <;> rfl
@[simp] theorem modifyBank_counters (p : Port) (f : HoldBank → HoldBank) (s : State) : (modifyBank p f s).counters = s.counters := by cases p <;> rfl
@[simp] theorem modifyBank_faults (p : Port) (f : HoldBank → HoldBank) (s : State) : (modifyBank p f s).faults = s.faults := by cases p <;> rfl
@[simp] theorem modifyBank_passed (p : Port) (f : HoldBank → HoldBank) (s : State) : (modifyBank p f s).passed = s.passed := by cases p <;> rfl
@[simp] theorem modifyBank_freeCount (p : Port) (f : HoldBank → HoldBank) (s : State) : (modifyBank p f s).freeCount = s.freeCount := by cases p <;> rfl
@[simp] theorem modifyBank_pending (p : Port) (f : HoldBank → HoldBank) (s : State) : (modifyBank p f s).pending = s.pending := by cases p <;> rfl
@[simp] theorem modifyBank_bank (p : Port) (f : HoldBank → HoldBank) (s : State) : (modifyBank p f s).bank p = f (s.bank p) := by
  cases p <;> rfl
@[simp] theorem modifyBank_port (p q : Port) (f : HoldBank → HoldBank) (s : State) : (modifyBank p f s).port q = s.port q := by
  cases p <;> cases q <;> rfl

/-! ## One block's own fields -/

@[simp] theorem setEngine_catalog (f : Engine → Engine) (s : State) : (setEngine f s).catalog = s.catalog := rfl
@[simp] theorem setEngine_blocks (f : Engine → Engine) (s : State) : (setEngine f s).blocks = s.blocks := rfl
@[simp] theorem setEngine_bank0 (f : Engine → Engine) (s : State) : (setEngine f s).bank0 = s.bank0 := rfl
@[simp] theorem setEngine_bank1 (f : Engine → Engine) (s : State) : (setEngine f s).bank1 = s.bank1 := rfl
@[simp] theorem setEngine_writer (f : Engine → Engine) (s : State) : (setEngine f s).writer = s.writer := rfl
@[simp] theorem setEngine_aligner (f : Engine → Engine) (s : State) : (setEngine f s).aligner = s.aligner := rfl
@[simp] theorem setEngine_intake (f : Engine → Engine) (s : State) : (setEngine f s).intake = s.intake := rfl
@[simp] theorem setEngine_mem (f : Engine → Engine) (s : State) : (setEngine f s).mem = s.mem := rfl
@[simp] theorem setEngine_session (f : Engine → Engine) (s : State) : (setEngine f s).session = s.session := rfl
@[simp] theorem setEngine_port0 (f : Engine → Engine) (s : State) : (setEngine f s).port0 = s.port0 := rfl
@[simp] theorem setEngine_port1 (f : Engine → Engine) (s : State) : (setEngine f s).port1 = s.port1 := rfl
@[simp] theorem setEngine_counters (f : Engine → Engine) (s : State) : (setEngine f s).counters = s.counters := rfl
@[simp] theorem setEngine_faults (f : Engine → Engine) (s : State) : (setEngine f s).faults = s.faults := rfl
@[simp] theorem setEngine_passed (f : Engine → Engine) (s : State) : (setEngine f s).passed = s.passed := rfl
@[simp] theorem setEngine_freeCount (f : Engine → Engine) (s : State) : (setEngine f s).freeCount = s.freeCount := rfl
@[simp] theorem setEngine_pending (f : Engine → Engine) (s : State) : (setEngine f s).pending = s.pending := rfl
@[simp] theorem setEngine_engine (f : Engine → Engine) (s : State) : (setEngine f s).engine = f s.engine := rfl
@[simp] theorem setEngine_port (f : Engine → Engine) (s : State) (q : Port) : (setEngine f s).port q = s.port q := by cases q <;> rfl
@[simp] theorem setEngine_bank (f : Engine → Engine) (s : State) (q : Port) : (setEngine f s).bank q = s.bank q := by cases q <;> rfl
@[simp] theorem setWriter_catalog (f : Writer → Writer) (s : State) : (setWriter f s).catalog = s.catalog := rfl
@[simp] theorem setWriter_blocks (f : Writer → Writer) (s : State) : (setWriter f s).blocks = s.blocks := rfl
@[simp] theorem setWriter_bank0 (f : Writer → Writer) (s : State) : (setWriter f s).bank0 = s.bank0 := rfl
@[simp] theorem setWriter_bank1 (f : Writer → Writer) (s : State) : (setWriter f s).bank1 = s.bank1 := rfl
@[simp] theorem setWriter_engine (f : Writer → Writer) (s : State) : (setWriter f s).engine = s.engine := rfl
@[simp] theorem setWriter_aligner (f : Writer → Writer) (s : State) : (setWriter f s).aligner = s.aligner := rfl
@[simp] theorem setWriter_intake (f : Writer → Writer) (s : State) : (setWriter f s).intake = s.intake := rfl
@[simp] theorem setWriter_mem (f : Writer → Writer) (s : State) : (setWriter f s).mem = s.mem := rfl
@[simp] theorem setWriter_session (f : Writer → Writer) (s : State) : (setWriter f s).session = s.session := rfl
@[simp] theorem setWriter_port0 (f : Writer → Writer) (s : State) : (setWriter f s).port0 = s.port0 := rfl
@[simp] theorem setWriter_port1 (f : Writer → Writer) (s : State) : (setWriter f s).port1 = s.port1 := rfl
@[simp] theorem setWriter_counters (f : Writer → Writer) (s : State) : (setWriter f s).counters = s.counters := rfl
@[simp] theorem setWriter_faults (f : Writer → Writer) (s : State) : (setWriter f s).faults = s.faults := rfl
@[simp] theorem setWriter_passed (f : Writer → Writer) (s : State) : (setWriter f s).passed = s.passed := rfl
@[simp] theorem setWriter_freeCount (f : Writer → Writer) (s : State) : (setWriter f s).freeCount = s.freeCount := rfl
@[simp] theorem setWriter_pending (f : Writer → Writer) (s : State) : (setWriter f s).pending = s.pending := rfl
@[simp] theorem setWriter_writer (f : Writer → Writer) (s : State) : (setWriter f s).writer = f s.writer := rfl
@[simp] theorem setWriter_port (f : Writer → Writer) (s : State) (q : Port) : (setWriter f s).port q = s.port q := by cases q <;> rfl
@[simp] theorem setWriter_bank (f : Writer → Writer) (s : State) (q : Port) : (setWriter f s).bank q = s.bank q := by cases q <;> rfl
@[simp] theorem setAligner_catalog (f : Aligner → Aligner) (s : State) : (setAligner f s).catalog = s.catalog := rfl
@[simp] theorem setAligner_blocks (f : Aligner → Aligner) (s : State) : (setAligner f s).blocks = s.blocks := rfl
@[simp] theorem setAligner_bank0 (f : Aligner → Aligner) (s : State) : (setAligner f s).bank0 = s.bank0 := rfl
@[simp] theorem setAligner_bank1 (f : Aligner → Aligner) (s : State) : (setAligner f s).bank1 = s.bank1 := rfl
@[simp] theorem setAligner_engine (f : Aligner → Aligner) (s : State) : (setAligner f s).engine = s.engine := rfl
@[simp] theorem setAligner_writer (f : Aligner → Aligner) (s : State) : (setAligner f s).writer = s.writer := rfl
@[simp] theorem setAligner_intake (f : Aligner → Aligner) (s : State) : (setAligner f s).intake = s.intake := rfl
@[simp] theorem setAligner_mem (f : Aligner → Aligner) (s : State) : (setAligner f s).mem = s.mem := rfl
@[simp] theorem setAligner_session (f : Aligner → Aligner) (s : State) : (setAligner f s).session = s.session := rfl
@[simp] theorem setAligner_port0 (f : Aligner → Aligner) (s : State) : (setAligner f s).port0 = s.port0 := rfl
@[simp] theorem setAligner_port1 (f : Aligner → Aligner) (s : State) : (setAligner f s).port1 = s.port1 := rfl
@[simp] theorem setAligner_counters (f : Aligner → Aligner) (s : State) : (setAligner f s).counters = s.counters := rfl
@[simp] theorem setAligner_faults (f : Aligner → Aligner) (s : State) : (setAligner f s).faults = s.faults := rfl
@[simp] theorem setAligner_passed (f : Aligner → Aligner) (s : State) : (setAligner f s).passed = s.passed := rfl
@[simp] theorem setAligner_freeCount (f : Aligner → Aligner) (s : State) : (setAligner f s).freeCount = s.freeCount := rfl
@[simp] theorem setAligner_pending (f : Aligner → Aligner) (s : State) : (setAligner f s).pending = s.pending := rfl
@[simp] theorem setAligner_aligner (f : Aligner → Aligner) (s : State) : (setAligner f s).aligner = f s.aligner := rfl
@[simp] theorem setAligner_port (f : Aligner → Aligner) (s : State) (q : Port) : (setAligner f s).port q = s.port q := by cases q <;> rfl
@[simp] theorem setAligner_bank (f : Aligner → Aligner) (s : State) (q : Port) : (setAligner f s).bank q = s.bank q := by cases q <;> rfl
@[simp] theorem setIntake_catalog (f : Intake → Intake) (s : State) : (setIntake f s).catalog = s.catalog := rfl
@[simp] theorem setIntake_blocks (f : Intake → Intake) (s : State) : (setIntake f s).blocks = s.blocks := rfl
@[simp] theorem setIntake_bank0 (f : Intake → Intake) (s : State) : (setIntake f s).bank0 = s.bank0 := rfl
@[simp] theorem setIntake_bank1 (f : Intake → Intake) (s : State) : (setIntake f s).bank1 = s.bank1 := rfl
@[simp] theorem setIntake_engine (f : Intake → Intake) (s : State) : (setIntake f s).engine = s.engine := rfl
@[simp] theorem setIntake_writer (f : Intake → Intake) (s : State) : (setIntake f s).writer = s.writer := rfl
@[simp] theorem setIntake_aligner (f : Intake → Intake) (s : State) : (setIntake f s).aligner = s.aligner := rfl
@[simp] theorem setIntake_mem (f : Intake → Intake) (s : State) : (setIntake f s).mem = s.mem := rfl
@[simp] theorem setIntake_session (f : Intake → Intake) (s : State) : (setIntake f s).session = s.session := rfl
@[simp] theorem setIntake_port0 (f : Intake → Intake) (s : State) : (setIntake f s).port0 = s.port0 := rfl
@[simp] theorem setIntake_port1 (f : Intake → Intake) (s : State) : (setIntake f s).port1 = s.port1 := rfl
@[simp] theorem setIntake_counters (f : Intake → Intake) (s : State) : (setIntake f s).counters = s.counters := rfl
@[simp] theorem setIntake_faults (f : Intake → Intake) (s : State) : (setIntake f s).faults = s.faults := rfl
@[simp] theorem setIntake_passed (f : Intake → Intake) (s : State) : (setIntake f s).passed = s.passed := rfl
@[simp] theorem setIntake_freeCount (f : Intake → Intake) (s : State) : (setIntake f s).freeCount = s.freeCount := rfl
@[simp] theorem setIntake_pending (f : Intake → Intake) (s : State) : (setIntake f s).pending = s.pending := rfl
@[simp] theorem setIntake_intake (f : Intake → Intake) (s : State) : (setIntake f s).intake = f s.intake := rfl
@[simp] theorem setIntake_port (f : Intake → Intake) (s : State) (q : Port) : (setIntake f s).port q = s.port q := by cases q <;> rfl
@[simp] theorem setIntake_bank (f : Intake → Intake) (s : State) (q : Port) : (setIntake f s).bank q = s.bank q := by cases q <;> rfl
@[simp] theorem setSession_catalog (f : Session → Session) (s : State) : (setSession f s).catalog = s.catalog := rfl
@[simp] theorem setSession_blocks (f : Session → Session) (s : State) : (setSession f s).blocks = s.blocks := rfl
@[simp] theorem setSession_bank0 (f : Session → Session) (s : State) : (setSession f s).bank0 = s.bank0 := rfl
@[simp] theorem setSession_bank1 (f : Session → Session) (s : State) : (setSession f s).bank1 = s.bank1 := rfl
@[simp] theorem setSession_engine (f : Session → Session) (s : State) : (setSession f s).engine = s.engine := rfl
@[simp] theorem setSession_writer (f : Session → Session) (s : State) : (setSession f s).writer = s.writer := rfl
@[simp] theorem setSession_aligner (f : Session → Session) (s : State) : (setSession f s).aligner = s.aligner := rfl
@[simp] theorem setSession_intake (f : Session → Session) (s : State) : (setSession f s).intake = s.intake := rfl
@[simp] theorem setSession_mem (f : Session → Session) (s : State) : (setSession f s).mem = s.mem := rfl
@[simp] theorem setSession_port0 (f : Session → Session) (s : State) : (setSession f s).port0 = s.port0 := rfl
@[simp] theorem setSession_port1 (f : Session → Session) (s : State) : (setSession f s).port1 = s.port1 := rfl
@[simp] theorem setSession_counters (f : Session → Session) (s : State) : (setSession f s).counters = s.counters := rfl
@[simp] theorem setSession_faults (f : Session → Session) (s : State) : (setSession f s).faults = s.faults := rfl
@[simp] theorem setSession_passed (f : Session → Session) (s : State) : (setSession f s).passed = s.passed := rfl
@[simp] theorem setSession_freeCount (f : Session → Session) (s : State) : (setSession f s).freeCount = s.freeCount := rfl
@[simp] theorem setSession_pending (f : Session → Session) (s : State) : (setSession f s).pending = s.pending := rfl
@[simp] theorem setSession_session (f : Session → Session) (s : State) : (setSession f s).session = f s.session := rfl
@[simp] theorem setSession_port (f : Session → Session) (s : State) (q : Port) : (setSession f s).port q = s.port q := by cases q <;> rfl
@[simp] theorem setSession_bank (f : Session → Session) (s : State) (q : Port) : (setSession f s).bank q = s.bank q := by cases q <;> rfl
@[simp] theorem setMem_catalog (f : MemService → MemService) (s : State) : (setMem f s).catalog = s.catalog := rfl
@[simp] theorem setMem_blocks (f : MemService → MemService) (s : State) : (setMem f s).blocks = s.blocks := rfl
@[simp] theorem setMem_bank0 (f : MemService → MemService) (s : State) : (setMem f s).bank0 = s.bank0 := rfl
@[simp] theorem setMem_bank1 (f : MemService → MemService) (s : State) : (setMem f s).bank1 = s.bank1 := rfl
@[simp] theorem setMem_engine (f : MemService → MemService) (s : State) : (setMem f s).engine = s.engine := rfl
@[simp] theorem setMem_writer (f : MemService → MemService) (s : State) : (setMem f s).writer = s.writer := rfl
@[simp] theorem setMem_aligner (f : MemService → MemService) (s : State) : (setMem f s).aligner = s.aligner := rfl
@[simp] theorem setMem_intake (f : MemService → MemService) (s : State) : (setMem f s).intake = s.intake := rfl
@[simp] theorem setMem_session (f : MemService → MemService) (s : State) : (setMem f s).session = s.session := rfl
@[simp] theorem setMem_port0 (f : MemService → MemService) (s : State) : (setMem f s).port0 = s.port0 := rfl
@[simp] theorem setMem_port1 (f : MemService → MemService) (s : State) : (setMem f s).port1 = s.port1 := rfl
@[simp] theorem setMem_counters (f : MemService → MemService) (s : State) : (setMem f s).counters = s.counters := rfl
@[simp] theorem setMem_faults (f : MemService → MemService) (s : State) : (setMem f s).faults = s.faults := rfl
@[simp] theorem setMem_passed (f : MemService → MemService) (s : State) : (setMem f s).passed = s.passed := rfl
@[simp] theorem setMem_freeCount (f : MemService → MemService) (s : State) : (setMem f s).freeCount = s.freeCount := rfl
@[simp] theorem setMem_pending (f : MemService → MemService) (s : State) : (setMem f s).pending = s.pending := rfl
@[simp] theorem setMem_mem (f : MemService → MemService) (s : State) : (setMem f s).mem = f s.mem := rfl
@[simp] theorem setMem_port (f : MemService → MemService) (s : State) (q : Port) : (setMem f s).port q = s.port q := by cases q <;> rfl
@[simp] theorem setMem_bank (f : MemService → MemService) (s : State) (q : Port) : (setMem f s).bank q = s.bank q := by cases q <;> rfl
@[simp] theorem addTotals_catalog (f : Totals → Totals) (s : State) : (addTotals f s).catalog = s.catalog := rfl
@[simp] theorem addTotals_blocks (f : Totals → Totals) (s : State) : (addTotals f s).blocks = s.blocks := rfl
@[simp] theorem addTotals_bank0 (f : Totals → Totals) (s : State) : (addTotals f s).bank0 = s.bank0 := rfl
@[simp] theorem addTotals_bank1 (f : Totals → Totals) (s : State) : (addTotals f s).bank1 = s.bank1 := rfl
@[simp] theorem addTotals_engine (f : Totals → Totals) (s : State) : (addTotals f s).engine = s.engine := rfl
@[simp] theorem addTotals_writer (f : Totals → Totals) (s : State) : (addTotals f s).writer = s.writer := rfl
@[simp] theorem addTotals_aligner (f : Totals → Totals) (s : State) : (addTotals f s).aligner = s.aligner := rfl
@[simp] theorem addTotals_intake (f : Totals → Totals) (s : State) : (addTotals f s).intake = s.intake := rfl
@[simp] theorem addTotals_mem (f : Totals → Totals) (s : State) : (addTotals f s).mem = s.mem := rfl
@[simp] theorem addTotals_port0 (f : Totals → Totals) (s : State) : (addTotals f s).port0 = s.port0 := rfl
@[simp] theorem addTotals_port1 (f : Totals → Totals) (s : State) : (addTotals f s).port1 = s.port1 := rfl
@[simp] theorem addTotals_counters (f : Totals → Totals) (s : State) : (addTotals f s).counters = s.counters := rfl
@[simp] theorem addTotals_faults (f : Totals → Totals) (s : State) : (addTotals f s).faults = s.faults := rfl
@[simp] theorem addTotals_passed (f : Totals → Totals) (s : State) : (addTotals f s).passed = s.passed := rfl
@[simp] theorem addTotals_freeCount (f : Totals → Totals) (s : State) : (addTotals f s).freeCount = s.freeCount := rfl
@[simp] theorem addTotals_pending (f : Totals → Totals) (s : State) : (addTotals f s).pending = s.pending := rfl
@[simp] theorem addTotals_session (f : Totals → Totals) (s : State) : (addTotals f s).session = { s.session with totals := f s.session.totals } := rfl
@[simp] theorem addTotals_port (f : Totals → Totals) (s : State) (q : Port) : (addTotals f s).port q = s.port q := by cases q <;> rfl
@[simp] theorem addTotals_bank (f : Totals → Totals) (s : State) (q : Port) : (addTotals f s).bank q = s.bank q := by cases q <;> rfl
@[simp] theorem setEntries_blocks (es : List Entry) (s : State) : (setEntries es s).blocks = s.blocks := rfl
@[simp] theorem setEntries_bank0 (es : List Entry) (s : State) : (setEntries es s).bank0 = s.bank0 := rfl
@[simp] theorem setEntries_bank1 (es : List Entry) (s : State) : (setEntries es s).bank1 = s.bank1 := rfl
@[simp] theorem setEntries_engine (es : List Entry) (s : State) : (setEntries es s).engine = s.engine := rfl
@[simp] theorem setEntries_writer (es : List Entry) (s : State) : (setEntries es s).writer = s.writer := rfl
@[simp] theorem setEntries_aligner (es : List Entry) (s : State) : (setEntries es s).aligner = s.aligner := rfl
@[simp] theorem setEntries_intake (es : List Entry) (s : State) : (setEntries es s).intake = s.intake := rfl
@[simp] theorem setEntries_mem (es : List Entry) (s : State) : (setEntries es s).mem = s.mem := rfl
@[simp] theorem setEntries_session (es : List Entry) (s : State) : (setEntries es s).session = s.session := rfl
@[simp] theorem setEntries_port0 (es : List Entry) (s : State) : (setEntries es s).port0 = s.port0 := rfl
@[simp] theorem setEntries_port1 (es : List Entry) (s : State) : (setEntries es s).port1 = s.port1 := rfl
@[simp] theorem setEntries_counters (es : List Entry) (s : State) : (setEntries es s).counters = s.counters := rfl
@[simp] theorem setEntries_faults (es : List Entry) (s : State) : (setEntries es s).faults = s.faults := rfl
@[simp] theorem setEntries_passed (es : List Entry) (s : State) : (setEntries es s).passed = s.passed := rfl
@[simp] theorem setEntries_freeCount (es : List Entry) (s : State) : (setEntries es s).freeCount = s.freeCount := rfl
@[simp] theorem setEntries_pending (es : List Entry) (s : State) : (setEntries es s).pending = s.pending := rfl
@[simp] theorem setEntries_catalog (es : List Entry) (s : State) : (setEntries es s).catalog = { s.catalog with entries := es } := rfl
@[simp] theorem setEntries_port (es : List Entry) (s : State) (q : Port) : (setEntries es s).port q = s.port q := by cases q <;> rfl
@[simp] theorem setEntries_bank (es : List Entry) (s : State) (q : Port) : (setEntries es s).bank q = s.bank q := by cases q <;> rfl
@[simp] theorem modifyBlock_catalog (b : Nat) (f : Block → Block) (s : State) : (modifyBlock b f s).catalog = s.catalog := rfl
@[simp] theorem modifyBlock_bank0 (b : Nat) (f : Block → Block) (s : State) : (modifyBlock b f s).bank0 = s.bank0 := rfl
@[simp] theorem modifyBlock_bank1 (b : Nat) (f : Block → Block) (s : State) : (modifyBlock b f s).bank1 = s.bank1 := rfl
@[simp] theorem modifyBlock_engine (b : Nat) (f : Block → Block) (s : State) : (modifyBlock b f s).engine = s.engine := rfl
@[simp] theorem modifyBlock_writer (b : Nat) (f : Block → Block) (s : State) : (modifyBlock b f s).writer = s.writer := rfl
@[simp] theorem modifyBlock_aligner (b : Nat) (f : Block → Block) (s : State) : (modifyBlock b f s).aligner = s.aligner := rfl
@[simp] theorem modifyBlock_intake (b : Nat) (f : Block → Block) (s : State) : (modifyBlock b f s).intake = s.intake := rfl
@[simp] theorem modifyBlock_mem (b : Nat) (f : Block → Block) (s : State) : (modifyBlock b f s).mem = s.mem := rfl
@[simp] theorem modifyBlock_session (b : Nat) (f : Block → Block) (s : State) : (modifyBlock b f s).session = s.session := rfl
@[simp] theorem modifyBlock_port0 (b : Nat) (f : Block → Block) (s : State) : (modifyBlock b f s).port0 = s.port0 := rfl
@[simp] theorem modifyBlock_port1 (b : Nat) (f : Block → Block) (s : State) : (modifyBlock b f s).port1 = s.port1 := rfl
@[simp] theorem modifyBlock_counters (b : Nat) (f : Block → Block) (s : State) : (modifyBlock b f s).counters = s.counters := rfl
@[simp] theorem modifyBlock_faults (b : Nat) (f : Block → Block) (s : State) : (modifyBlock b f s).faults = s.faults := rfl
@[simp] theorem modifyBlock_passed (b : Nat) (f : Block → Block) (s : State) : (modifyBlock b f s).passed = s.passed := rfl
@[simp] theorem modifyBlock_freeCount (b : Nat) (f : Block → Block) (s : State) : (modifyBlock b f s).freeCount = s.freeCount := rfl
@[simp] theorem modifyBlock_pending (b : Nat) (f : Block → Block) (s : State) : (modifyBlock b f s).pending = s.pending := rfl
@[simp] theorem modifyBlock_blocks (b : Nat) (f : Block → Block) (s : State) : (modifyBlock b f s).blocks = s.blocks.modify b f := rfl
@[simp] theorem modifyBlock_port (b : Nat) (f : Block → Block) (s : State) (q : Port) : (modifyBlock b f s).port q = s.port q := by cases q <;> rfl
@[simp] theorem modifyBlock_bank (b : Nat) (f : Block → Block) (s : State) (q : Port) : (modifyBlock b f s).bank q = s.bank q := by cases q <;> rfl
@[simp] theorem setFaultRecord_catalog (u : FaultUnit) (r : FaultRecord) (s : State) : (setFaultRecord u r s).catalog = s.catalog := rfl
@[simp] theorem setFaultRecord_blocks (u : FaultUnit) (r : FaultRecord) (s : State) : (setFaultRecord u r s).blocks = s.blocks := rfl
@[simp] theorem setFaultRecord_bank0 (u : FaultUnit) (r : FaultRecord) (s : State) : (setFaultRecord u r s).bank0 = s.bank0 := rfl
@[simp] theorem setFaultRecord_bank1 (u : FaultUnit) (r : FaultRecord) (s : State) : (setFaultRecord u r s).bank1 = s.bank1 := rfl
@[simp] theorem setFaultRecord_engine (u : FaultUnit) (r : FaultRecord) (s : State) : (setFaultRecord u r s).engine = s.engine := rfl
@[simp] theorem setFaultRecord_writer (u : FaultUnit) (r : FaultRecord) (s : State) : (setFaultRecord u r s).writer = s.writer := rfl
@[simp] theorem setFaultRecord_aligner (u : FaultUnit) (r : FaultRecord) (s : State) : (setFaultRecord u r s).aligner = s.aligner := rfl
@[simp] theorem setFaultRecord_intake (u : FaultUnit) (r : FaultRecord) (s : State) : (setFaultRecord u r s).intake = s.intake := rfl
@[simp] theorem setFaultRecord_mem (u : FaultUnit) (r : FaultRecord) (s : State) : (setFaultRecord u r s).mem = s.mem := rfl
@[simp] theorem setFaultRecord_session (u : FaultUnit) (r : FaultRecord) (s : State) : (setFaultRecord u r s).session = s.session := rfl
@[simp] theorem setFaultRecord_port0 (u : FaultUnit) (r : FaultRecord) (s : State) : (setFaultRecord u r s).port0 = s.port0 := rfl
@[simp] theorem setFaultRecord_port1 (u : FaultUnit) (r : FaultRecord) (s : State) : (setFaultRecord u r s).port1 = s.port1 := rfl
@[simp] theorem setFaultRecord_counters (u : FaultUnit) (r : FaultRecord) (s : State) : (setFaultRecord u r s).counters = s.counters := rfl
@[simp] theorem setFaultRecord_passed (u : FaultUnit) (r : FaultRecord) (s : State) : (setFaultRecord u r s).passed = s.passed := rfl
@[simp] theorem setFaultRecord_freeCount (u : FaultUnit) (r : FaultRecord) (s : State) : (setFaultRecord u r s).freeCount = s.freeCount := rfl
@[simp] theorem setFaultRecord_pending (u : FaultUnit) (r : FaultRecord) (s : State) : (setFaultRecord u r s).pending = s.pending := rfl
@[simp] theorem setFaultRecord_faults (u : FaultUnit) (r : FaultRecord) (s : State) : (setFaultRecord u r s).faults = { s.faults with records := s.faults.records.set u.idx.val r u.idx.isLt } := rfl
@[simp] theorem setFaultRecord_port (u : FaultUnit) (r : FaultRecord) (s : State) (q : Port) : (setFaultRecord u r s).port q = s.port q := by cases q <;> rfl
@[simp] theorem setFaultRecord_bank (u : FaultUnit) (r : FaultRecord) (s : State) (q : Port) : (setFaultRecord u r s).bank q = s.bank q := by cases q <;> rfl

/-! ## Counters -/

@[simp] theorem countIntake_catalog (f : IntakeCounters → IntakeCounters) (s : State) : (countIntake f s).catalog = s.catalog := by unfold countIntake; split <;> rfl
@[simp] theorem countIntake_blocks (f : IntakeCounters → IntakeCounters) (s : State) : (countIntake f s).blocks = s.blocks := by unfold countIntake; split <;> rfl
@[simp] theorem countIntake_bank0 (f : IntakeCounters → IntakeCounters) (s : State) : (countIntake f s).bank0 = s.bank0 := by unfold countIntake; split <;> rfl
@[simp] theorem countIntake_bank1 (f : IntakeCounters → IntakeCounters) (s : State) : (countIntake f s).bank1 = s.bank1 := by unfold countIntake; split <;> rfl
@[simp] theorem countIntake_engine (f : IntakeCounters → IntakeCounters) (s : State) : (countIntake f s).engine = s.engine := by unfold countIntake; split <;> rfl
@[simp] theorem countIntake_writer (f : IntakeCounters → IntakeCounters) (s : State) : (countIntake f s).writer = s.writer := by unfold countIntake; split <;> rfl
@[simp] theorem countIntake_aligner (f : IntakeCounters → IntakeCounters) (s : State) : (countIntake f s).aligner = s.aligner := by unfold countIntake; split <;> rfl
@[simp] theorem countIntake_intake (f : IntakeCounters → IntakeCounters) (s : State) : (countIntake f s).intake = s.intake := by unfold countIntake; split <;> rfl
@[simp] theorem countIntake_mem (f : IntakeCounters → IntakeCounters) (s : State) : (countIntake f s).mem = s.mem := by unfold countIntake; split <;> rfl
@[simp] theorem countIntake_session (f : IntakeCounters → IntakeCounters) (s : State) : (countIntake f s).session = s.session := by unfold countIntake; split <;> rfl
@[simp] theorem countIntake_port0 (f : IntakeCounters → IntakeCounters) (s : State) : (countIntake f s).port0 = s.port0 := by unfold countIntake; split <;> rfl
@[simp] theorem countIntake_port1 (f : IntakeCounters → IntakeCounters) (s : State) : (countIntake f s).port1 = s.port1 := by unfold countIntake; split <;> rfl
@[simp] theorem countIntake_faults (f : IntakeCounters → IntakeCounters) (s : State) : (countIntake f s).faults = s.faults := by unfold countIntake; split <;> rfl
@[simp] theorem countIntake_passed (f : IntakeCounters → IntakeCounters) (s : State) : (countIntake f s).passed = s.passed := by unfold countIntake; split <;> rfl
@[simp] theorem countIntake_freeCount (f : IntakeCounters → IntakeCounters) (s : State) : (countIntake f s).freeCount = s.freeCount := by unfold countIntake; split <;> rfl
@[simp] theorem countIntake_pending (f : IntakeCounters → IntakeCounters) (s : State) : (countIntake f s).pending = s.pending := by unfold countIntake; split <;> rfl
@[simp] theorem countIntake_port (f : IntakeCounters → IntakeCounters) (s : State) (q : Port) : (countIntake f s).port q = s.port q := by unfold countIntake; split <;> cases q <;> rfl
@[simp] theorem countIntake_bank (f : IntakeCounters → IntakeCounters) (s : State) (q : Port) : (countIntake f s).bank q = s.bank q := by unfold countIntake; split <;> cases q <;> rfl
theorem countIntake_counters (f : IntakeCounters → IntakeCounters) (s : State) :
    (countIntake f s).counters = if s.counting then { s.counters with intake := f s.counters.intake } else s.counters := by
  unfold countIntake; split <;> rfl
@[simp] theorem countTrigger_catalog (f : TriggerCounters → TriggerCounters) (s : State) : (countTrigger f s).catalog = s.catalog := by unfold countTrigger; split <;> rfl
@[simp] theorem countTrigger_blocks (f : TriggerCounters → TriggerCounters) (s : State) : (countTrigger f s).blocks = s.blocks := by unfold countTrigger; split <;> rfl
@[simp] theorem countTrigger_bank0 (f : TriggerCounters → TriggerCounters) (s : State) : (countTrigger f s).bank0 = s.bank0 := by unfold countTrigger; split <;> rfl
@[simp] theorem countTrigger_bank1 (f : TriggerCounters → TriggerCounters) (s : State) : (countTrigger f s).bank1 = s.bank1 := by unfold countTrigger; split <;> rfl
@[simp] theorem countTrigger_engine (f : TriggerCounters → TriggerCounters) (s : State) : (countTrigger f s).engine = s.engine := by unfold countTrigger; split <;> rfl
@[simp] theorem countTrigger_writer (f : TriggerCounters → TriggerCounters) (s : State) : (countTrigger f s).writer = s.writer := by unfold countTrigger; split <;> rfl
@[simp] theorem countTrigger_aligner (f : TriggerCounters → TriggerCounters) (s : State) : (countTrigger f s).aligner = s.aligner := by unfold countTrigger; split <;> rfl
@[simp] theorem countTrigger_intake (f : TriggerCounters → TriggerCounters) (s : State) : (countTrigger f s).intake = s.intake := by unfold countTrigger; split <;> rfl
@[simp] theorem countTrigger_mem (f : TriggerCounters → TriggerCounters) (s : State) : (countTrigger f s).mem = s.mem := by unfold countTrigger; split <;> rfl
@[simp] theorem countTrigger_session (f : TriggerCounters → TriggerCounters) (s : State) : (countTrigger f s).session = s.session := by unfold countTrigger; split <;> rfl
@[simp] theorem countTrigger_port0 (f : TriggerCounters → TriggerCounters) (s : State) : (countTrigger f s).port0 = s.port0 := by unfold countTrigger; split <;> rfl
@[simp] theorem countTrigger_port1 (f : TriggerCounters → TriggerCounters) (s : State) : (countTrigger f s).port1 = s.port1 := by unfold countTrigger; split <;> rfl
@[simp] theorem countTrigger_faults (f : TriggerCounters → TriggerCounters) (s : State) : (countTrigger f s).faults = s.faults := by unfold countTrigger; split <;> rfl
@[simp] theorem countTrigger_passed (f : TriggerCounters → TriggerCounters) (s : State) : (countTrigger f s).passed = s.passed := by unfold countTrigger; split <;> rfl
@[simp] theorem countTrigger_freeCount (f : TriggerCounters → TriggerCounters) (s : State) : (countTrigger f s).freeCount = s.freeCount := by unfold countTrigger; split <;> rfl
@[simp] theorem countTrigger_pending (f : TriggerCounters → TriggerCounters) (s : State) : (countTrigger f s).pending = s.pending := by unfold countTrigger; split <;> rfl
@[simp] theorem countTrigger_port (f : TriggerCounters → TriggerCounters) (s : State) (q : Port) : (countTrigger f s).port q = s.port q := by unfold countTrigger; split <;> cases q <;> rfl
@[simp] theorem countTrigger_bank (f : TriggerCounters → TriggerCounters) (s : State) (q : Port) : (countTrigger f s).bank q = s.bank q := by unfold countTrigger; split <;> cases q <;> rfl
theorem countTrigger_counters (f : TriggerCounters → TriggerCounters) (s : State) :
    (countTrigger f s).counters = if s.counting then { s.counters with trigger := f s.counters.trigger } else s.counters := by
  unfold countTrigger; split <;> rfl
@[simp] theorem countCatalog_catalog (f : CatalogCounters → CatalogCounters) (s : State) : (countCatalog f s).catalog = s.catalog := by unfold countCatalog; split <;> rfl
@[simp] theorem countCatalog_blocks (f : CatalogCounters → CatalogCounters) (s : State) : (countCatalog f s).blocks = s.blocks := by unfold countCatalog; split <;> rfl
@[simp] theorem countCatalog_bank0 (f : CatalogCounters → CatalogCounters) (s : State) : (countCatalog f s).bank0 = s.bank0 := by unfold countCatalog; split <;> rfl
@[simp] theorem countCatalog_bank1 (f : CatalogCounters → CatalogCounters) (s : State) : (countCatalog f s).bank1 = s.bank1 := by unfold countCatalog; split <;> rfl
@[simp] theorem countCatalog_engine (f : CatalogCounters → CatalogCounters) (s : State) : (countCatalog f s).engine = s.engine := by unfold countCatalog; split <;> rfl
@[simp] theorem countCatalog_writer (f : CatalogCounters → CatalogCounters) (s : State) : (countCatalog f s).writer = s.writer := by unfold countCatalog; split <;> rfl
@[simp] theorem countCatalog_aligner (f : CatalogCounters → CatalogCounters) (s : State) : (countCatalog f s).aligner = s.aligner := by unfold countCatalog; split <;> rfl
@[simp] theorem countCatalog_intake (f : CatalogCounters → CatalogCounters) (s : State) : (countCatalog f s).intake = s.intake := by unfold countCatalog; split <;> rfl
@[simp] theorem countCatalog_mem (f : CatalogCounters → CatalogCounters) (s : State) : (countCatalog f s).mem = s.mem := by unfold countCatalog; split <;> rfl
@[simp] theorem countCatalog_session (f : CatalogCounters → CatalogCounters) (s : State) : (countCatalog f s).session = s.session := by unfold countCatalog; split <;> rfl
@[simp] theorem countCatalog_port0 (f : CatalogCounters → CatalogCounters) (s : State) : (countCatalog f s).port0 = s.port0 := by unfold countCatalog; split <;> rfl
@[simp] theorem countCatalog_port1 (f : CatalogCounters → CatalogCounters) (s : State) : (countCatalog f s).port1 = s.port1 := by unfold countCatalog; split <;> rfl
@[simp] theorem countCatalog_faults (f : CatalogCounters → CatalogCounters) (s : State) : (countCatalog f s).faults = s.faults := by unfold countCatalog; split <;> rfl
@[simp] theorem countCatalog_passed (f : CatalogCounters → CatalogCounters) (s : State) : (countCatalog f s).passed = s.passed := by unfold countCatalog; split <;> rfl
@[simp] theorem countCatalog_freeCount (f : CatalogCounters → CatalogCounters) (s : State) : (countCatalog f s).freeCount = s.freeCount := by unfold countCatalog; split <;> rfl
@[simp] theorem countCatalog_pending (f : CatalogCounters → CatalogCounters) (s : State) : (countCatalog f s).pending = s.pending := by unfold countCatalog; split <;> rfl
@[simp] theorem countCatalog_port (f : CatalogCounters → CatalogCounters) (s : State) (q : Port) : (countCatalog f s).port q = s.port q := by unfold countCatalog; split <;> cases q <;> rfl
@[simp] theorem countCatalog_bank (f : CatalogCounters → CatalogCounters) (s : State) (q : Port) : (countCatalog f s).bank q = s.bank q := by unfold countCatalog; split <;> cases q <;> rfl
theorem countCatalog_counters (f : CatalogCounters → CatalogCounters) (s : State) :
    (countCatalog f s).counters = if s.counting then { s.counters with catalog := f s.counters.catalog } else s.counters := by
  unfold countCatalog; split <;> rfl
@[simp] theorem countArchive_catalog (f : ArchiveCounters → ArchiveCounters) (s : State) : (countArchive f s).catalog = s.catalog := rfl
@[simp] theorem countArchive_blocks (f : ArchiveCounters → ArchiveCounters) (s : State) : (countArchive f s).blocks = s.blocks := rfl
@[simp] theorem countArchive_bank0 (f : ArchiveCounters → ArchiveCounters) (s : State) : (countArchive f s).bank0 = s.bank0 := rfl
@[simp] theorem countArchive_bank1 (f : ArchiveCounters → ArchiveCounters) (s : State) : (countArchive f s).bank1 = s.bank1 := rfl
@[simp] theorem countArchive_engine (f : ArchiveCounters → ArchiveCounters) (s : State) : (countArchive f s).engine = s.engine := rfl
@[simp] theorem countArchive_writer (f : ArchiveCounters → ArchiveCounters) (s : State) : (countArchive f s).writer = s.writer := rfl
@[simp] theorem countArchive_aligner (f : ArchiveCounters → ArchiveCounters) (s : State) : (countArchive f s).aligner = s.aligner := rfl
@[simp] theorem countArchive_intake (f : ArchiveCounters → ArchiveCounters) (s : State) : (countArchive f s).intake = s.intake := rfl
@[simp] theorem countArchive_mem (f : ArchiveCounters → ArchiveCounters) (s : State) : (countArchive f s).mem = s.mem := rfl
@[simp] theorem countArchive_session (f : ArchiveCounters → ArchiveCounters) (s : State) : (countArchive f s).session = s.session := rfl
@[simp] theorem countArchive_port0 (f : ArchiveCounters → ArchiveCounters) (s : State) : (countArchive f s).port0 = s.port0 := rfl
@[simp] theorem countArchive_port1 (f : ArchiveCounters → ArchiveCounters) (s : State) : (countArchive f s).port1 = s.port1 := rfl
@[simp] theorem countArchive_faults (f : ArchiveCounters → ArchiveCounters) (s : State) : (countArchive f s).faults = s.faults := rfl
@[simp] theorem countArchive_passed (f : ArchiveCounters → ArchiveCounters) (s : State) : (countArchive f s).passed = s.passed := rfl
@[simp] theorem countArchive_freeCount (f : ArchiveCounters → ArchiveCounters) (s : State) : (countArchive f s).freeCount = s.freeCount := rfl
@[simp] theorem countArchive_pending (f : ArchiveCounters → ArchiveCounters) (s : State) : (countArchive f s).pending = s.pending := rfl
@[simp] theorem countArchive_counters (f : ArchiveCounters → ArchiveCounters) (s : State) : (countArchive f s).counters = { s.counters with archive := f s.counters.archive } := rfl
@[simp] theorem countArchive_port (f : ArchiveCounters → ArchiveCounters) (s : State) (q : Port) : (countArchive f s).port q = s.port q := by cases q <;> rfl
@[simp] theorem countArchive_bank (f : ArchiveCounters → ArchiveCounters) (s : State) (q : Port) : (countArchive f s).bank q = s.bank q := by cases q <;> rfl
@[simp] theorem countHolds_catalog (f : HoldCounters → HoldCounters) (s : State) : (countHolds f s).catalog = s.catalog := rfl
@[simp] theorem countHolds_blocks (f : HoldCounters → HoldCounters) (s : State) : (countHolds f s).blocks = s.blocks := rfl
@[simp] theorem countHolds_bank0 (f : HoldCounters → HoldCounters) (s : State) : (countHolds f s).bank0 = s.bank0 := rfl
@[simp] theorem countHolds_bank1 (f : HoldCounters → HoldCounters) (s : State) : (countHolds f s).bank1 = s.bank1 := rfl
@[simp] theorem countHolds_engine (f : HoldCounters → HoldCounters) (s : State) : (countHolds f s).engine = s.engine := rfl
@[simp] theorem countHolds_writer (f : HoldCounters → HoldCounters) (s : State) : (countHolds f s).writer = s.writer := rfl
@[simp] theorem countHolds_aligner (f : HoldCounters → HoldCounters) (s : State) : (countHolds f s).aligner = s.aligner := rfl
@[simp] theorem countHolds_intake (f : HoldCounters → HoldCounters) (s : State) : (countHolds f s).intake = s.intake := rfl
@[simp] theorem countHolds_mem (f : HoldCounters → HoldCounters) (s : State) : (countHolds f s).mem = s.mem := rfl
@[simp] theorem countHolds_session (f : HoldCounters → HoldCounters) (s : State) : (countHolds f s).session = s.session := rfl
@[simp] theorem countHolds_port0 (f : HoldCounters → HoldCounters) (s : State) : (countHolds f s).port0 = s.port0 := rfl
@[simp] theorem countHolds_port1 (f : HoldCounters → HoldCounters) (s : State) : (countHolds f s).port1 = s.port1 := rfl
@[simp] theorem countHolds_faults (f : HoldCounters → HoldCounters) (s : State) : (countHolds f s).faults = s.faults := rfl
@[simp] theorem countHolds_passed (f : HoldCounters → HoldCounters) (s : State) : (countHolds f s).passed = s.passed := rfl
@[simp] theorem countHolds_freeCount (f : HoldCounters → HoldCounters) (s : State) : (countHolds f s).freeCount = s.freeCount := rfl
@[simp] theorem countHolds_pending (f : HoldCounters → HoldCounters) (s : State) : (countHolds f s).pending = s.pending := rfl
@[simp] theorem countHolds_counters (f : HoldCounters → HoldCounters) (s : State) : (countHolds f s).counters = { s.counters with holds := f s.counters.holds } := rfl
@[simp] theorem countHolds_port (f : HoldCounters → HoldCounters) (s : State) (q : Port) : (countHolds f s).port q = s.port q := by cases q <;> rfl
@[simp] theorem countHolds_bank (f : HoldCounters → HoldCounters) (s : State) (q : Port) : (countHolds f s).bank q = s.bank q := by cases q <;> rfl
@[simp] theorem countMemory_catalog (f : MemoryCounters → MemoryCounters) (s : State) : (countMemory f s).catalog = s.catalog := rfl
@[simp] theorem countMemory_blocks (f : MemoryCounters → MemoryCounters) (s : State) : (countMemory f s).blocks = s.blocks := rfl
@[simp] theorem countMemory_bank0 (f : MemoryCounters → MemoryCounters) (s : State) : (countMemory f s).bank0 = s.bank0 := rfl
@[simp] theorem countMemory_bank1 (f : MemoryCounters → MemoryCounters) (s : State) : (countMemory f s).bank1 = s.bank1 := rfl
@[simp] theorem countMemory_engine (f : MemoryCounters → MemoryCounters) (s : State) : (countMemory f s).engine = s.engine := rfl
@[simp] theorem countMemory_writer (f : MemoryCounters → MemoryCounters) (s : State) : (countMemory f s).writer = s.writer := rfl
@[simp] theorem countMemory_aligner (f : MemoryCounters → MemoryCounters) (s : State) : (countMemory f s).aligner = s.aligner := rfl
@[simp] theorem countMemory_intake (f : MemoryCounters → MemoryCounters) (s : State) : (countMemory f s).intake = s.intake := rfl
@[simp] theorem countMemory_mem (f : MemoryCounters → MemoryCounters) (s : State) : (countMemory f s).mem = s.mem := rfl
@[simp] theorem countMemory_session (f : MemoryCounters → MemoryCounters) (s : State) : (countMemory f s).session = s.session := rfl
@[simp] theorem countMemory_port0 (f : MemoryCounters → MemoryCounters) (s : State) : (countMemory f s).port0 = s.port0 := rfl
@[simp] theorem countMemory_port1 (f : MemoryCounters → MemoryCounters) (s : State) : (countMemory f s).port1 = s.port1 := rfl
@[simp] theorem countMemory_faults (f : MemoryCounters → MemoryCounters) (s : State) : (countMemory f s).faults = s.faults := rfl
@[simp] theorem countMemory_passed (f : MemoryCounters → MemoryCounters) (s : State) : (countMemory f s).passed = s.passed := rfl
@[simp] theorem countMemory_freeCount (f : MemoryCounters → MemoryCounters) (s : State) : (countMemory f s).freeCount = s.freeCount := rfl
@[simp] theorem countMemory_pending (f : MemoryCounters → MemoryCounters) (s : State) : (countMemory f s).pending = s.pending := rfl
@[simp] theorem countMemory_counters (f : MemoryCounters → MemoryCounters) (s : State) : (countMemory f s).counters = { s.counters with memory := f s.counters.memory } := rfl
@[simp] theorem countMemory_port (f : MemoryCounters → MemoryCounters) (s : State) (q : Port) : (countMemory f s).port q = s.port q := by cases q <;> rfl
@[simp] theorem countMemory_bank (f : MemoryCounters → MemoryCounters) (s : State) (q : Port) : (countMemory f s).bank q = s.bank q := by cases q <;> rfl
@[simp] theorem countPort_catalog (p : Port) (f : PortCounters → PortCounters) (s : State) : (countPort p f s).catalog = s.catalog := by cases p <;> rfl
@[simp] theorem countPort_blocks (p : Port) (f : PortCounters → PortCounters) (s : State) : (countPort p f s).blocks = s.blocks := by cases p <;> rfl
@[simp] theorem countPort_bank0 (p : Port) (f : PortCounters → PortCounters) (s : State) : (countPort p f s).bank0 = s.bank0 := by cases p <;> rfl
@[simp] theorem countPort_bank1 (p : Port) (f : PortCounters → PortCounters) (s : State) : (countPort p f s).bank1 = s.bank1 := by cases p <;> rfl
@[simp] theorem countPort_engine (p : Port) (f : PortCounters → PortCounters) (s : State) : (countPort p f s).engine = s.engine := by cases p <;> rfl
@[simp] theorem countPort_writer (p : Port) (f : PortCounters → PortCounters) (s : State) : (countPort p f s).writer = s.writer := by cases p <;> rfl
@[simp] theorem countPort_aligner (p : Port) (f : PortCounters → PortCounters) (s : State) : (countPort p f s).aligner = s.aligner := by cases p <;> rfl
@[simp] theorem countPort_intake (p : Port) (f : PortCounters → PortCounters) (s : State) : (countPort p f s).intake = s.intake := by cases p <;> rfl
@[simp] theorem countPort_mem (p : Port) (f : PortCounters → PortCounters) (s : State) : (countPort p f s).mem = s.mem := by cases p <;> rfl
@[simp] theorem countPort_session (p : Port) (f : PortCounters → PortCounters) (s : State) : (countPort p f s).session = s.session := by cases p <;> rfl
@[simp] theorem countPort_port0 (p : Port) (f : PortCounters → PortCounters) (s : State) : (countPort p f s).port0 = s.port0 := by cases p <;> rfl
@[simp] theorem countPort_port1 (p : Port) (f : PortCounters → PortCounters) (s : State) : (countPort p f s).port1 = s.port1 := by cases p <;> rfl
@[simp] theorem countPort_faults (p : Port) (f : PortCounters → PortCounters) (s : State) : (countPort p f s).faults = s.faults := by cases p <;> rfl
@[simp] theorem countPort_passed (p : Port) (f : PortCounters → PortCounters) (s : State) : (countPort p f s).passed = s.passed := by cases p <;> rfl
@[simp] theorem countPort_freeCount (p : Port) (f : PortCounters → PortCounters) (s : State) : (countPort p f s).freeCount = s.freeCount := by cases p <;> rfl
@[simp] theorem countPort_pending (p : Port) (f : PortCounters → PortCounters) (s : State) : (countPort p f s).pending = s.pending := by cases p <;> rfl
@[simp] theorem countPort_port (p q : Port) (f : PortCounters → PortCounters) (s : State) : (countPort p f s).port q = s.port q := by
  cases p <;> cases q <;> rfl
@[simp] theorem countPort_bank (p q : Port) (f : PortCounters → PortCounters) (s : State) : (countPort p f s).bank q = s.bank q := by
  cases p <;> cases q <;> rfl
@[simp] theorem countPort_counters_port (p : Port) (f : PortCounters → PortCounters) (s : State) :
    (countPort p f s).counters.port p = f (s.counters.port p) := by cases p <;> rfl

end Sys2Proof.Laws
end

