-- ==== Sys2Proof/Laws/Notices.lean ====
section
/-! SUPPORT. What the operations of Machine/Ops.lean can do: entries and notices are added behind those that stand in the
completion queue, and nothing else changes but notices missed and fault records. -/

namespace Sys2Proof.Laws

open Sys2Proof.Machine

/-! ## Relations that a view gives -/

/-- `t` agrees with `s` under a view; its port units are those of `s` with entries and notices added; the catalog's
numbers and the bound of the refresh debt are kept. -/
structure Rel (view : State → State) (s t : State) : Prop where
  view : view t = view s
  ports : ∀ p, PortKept (s.port p) (t.port p)
  numbered : s.catalog.Numbered → t.catalog.Numbered
  debt : s.debtBounded → t.debtBounded

/-- What notices, completions and fault reports leave alone. -/
abbrev Told := Rel State.apartFromNotices
/-- What changes of entries leave alone. -/
abbrev Ent := Rel State.apartFromEntries
/-- What reclaim and the freeing of holds leave alone. -/
abbrev Low := Rel State.apartFromReclaim
/-- What the engine's acts and the arbiter leave alone. -/
abbrev Eng := Rel State.apartFromArchive
/-- What the settling of the capture side leaves alone. -/
abbrev Cap := Rel State.apartFromCapture

theorem queueKept_refl (u : PortUnit) : QueueKept u u := ⟨rfl, le_rfl, fun _ _ => rfl⟩

theorem queueKept_trans {u v w : PortUnit} (h : QueueKept u v) (k : QueueKept v w) : QueueKept u w :=
  ⟨k.head.trans h.head, h.more.trans k.more, fun i hi => (k.same i (hi.trans_le h.more)).trans (h.same i hi)⟩

theorem portKept_refl (u : PortUnit) : PortKept u u := ⟨rfl, queueKept_refl u⟩

theorem portKept_trans {u v w : PortUnit} (h : PortKept u v) (k : PortKept v w) : PortKept u w :=
  ⟨k.rest.trans h.rest, queueKept_trans h.queue k.queue⟩

theorem Rel.refl {v : State → State} (s : State) : Rel v s s := ⟨rfl, fun _ => portKept_refl _, id, id⟩

theorem Rel.trans {v : State → State} {s t u : State} (h : Rel v s t) (k : Rel v t u) : Rel v s u :=
  ⟨k.view.trans h.view, fun p => portKept_trans (h.ports p) (k.ports p), k.numbered ∘ h.numbered, k.debt ∘ h.debt⟩

theorem Rel.mono {v w : State → State} {s t : State} (hv : v t = v s → w t = w s) (h : Rel v s t) : Rel w s t :=
  ⟨hv h.view, h.ports, h.numbered, h.debt⟩

/-- An update that touches no port unit, no catalog number and no refresh debt. -/
theorem Rel.of {v : State → State} {s t : State} (hv : v t = v s) (h0 : t.port0 = s.port0) (h1 : t.port1 = s.port1)
    (hc : t.catalog = s.catalog) (hd : t.mem.debt = s.mem.debt) : Rel v s t :=
  ⟨hv, fun p => by
      cases p
      · exact (congrArg (PortKept s.port0) h0).mpr (portKept_refl _)
      · exact (congrArg (PortKept s.port1) h1).mpr (portKept_refl _),
    fun h => hc ▸ h, fun h => (show t.mem.debt ≤ 9 from hd ▸ h)⟩

theorem Rel.foldl {v : State → State} {α : Type} (f : State → α → State) (hf : ∀ s a, Rel v s (f s a)) :
    ∀ (l : List α) (s : State), Rel v s (l.foldl f s)
  | [], s => Rel.refl s
  | a :: l, s => (hf s a).trans (Rel.foldl f hf l (f s a))

theorem Rel.ite {v : State → State} {s t u : State} {c : Prop} [Decidable c] (h : Rel v s t) (k : Rel v s u) :
    Rel v s (if c then t else u) := by split <;> assumption

theorem Told.ent {s t : State} (h : Told s t) : Ent s t :=
  h.mono (fun e => by simp only [State.apartFromEntries, e])

theorem Ent.low {s t : State} (h : Ent s t) : Low s t :=
  h.mono (fun e => by simp only [State.apartFromReclaim, e])

theorem Ent.eng {s t : State} (h : Ent s t) : Eng s t :=
  h.mono (fun e => by simp only [State.apartFromArchive, e])

theorem Eng.cap {s t : State} (h : Eng s t) : Cap s t :=
  h.mono (fun e => by simp only [State.apartFromCapture, e])

theorem capture_of_reclaim (s : State) : s.apartFromCapture = s.apartFromReclaim.apartFromCapture := rfl

theorem Low.cap {s t : State} (h : Low s t) : Cap s t :=
  h.mono (fun e => by rw [capture_of_reclaim t, e, ← capture_of_reclaim])

theorem Told.low {s t : State} (h : Told s t) : Low s t := (Told.ent h).low
theorem Told.eng {s t : State} (h : Told s t) : Eng s t := (Told.ent h).eng
theorem Told.cap {s t : State} (h : Told s t) : Cap s t := (Told.eng h).cap
theorem Ent.cap {s t : State} (h : Ent s t) : Cap s t := (Ent.eng h).cap

/-! ## Port units -/

/-- The two port units of a state after one has been replaced. -/
theorem told_setPort {p : Port} {u : PortUnit} {s : State} (h : PortKept (s.port p) u) : Told s (s.setPort p u) := by
  refine ⟨by cases p <;> rfl, fun q => ?_, by cases p <;> exact id, by cases p <;> exact id⟩
  rw [setPort_port_ite]
  split
  · next e => exact e ▸ h
  · exact portKept_refl _

theorem told_modifyPort {p : Port} {f : PortUnit → PortUnit} {s : State} (h : PortKept (s.port p) (f (s.port p))) :
    Told s (modifyPort p f s) := told_setPort h

/-- A change of the fields that entries and notices may change, with the queue as it was. -/
theorem portKept_of {u v : PortUnit} (hr : v.apartFromNotices = u.apartFromNotices) (hs : v.cplSlots = u.cplSlots)
    (ht : v.cplTail = u.cplTail) : PortKept u v := by
  have hh : v.cplHead = u.cplHead := by
    have := congrArg (fun w : PortUnit => w.cplHead) hr
    exact this
  exact ⟨hr, hh, by simp [PortUnit.entries, hh, ht], fun k _ => by simp [PortUnit.queued, hh, hs]⟩

theorem told_interrupt (p : Port) (s : State) : Told s (interrupt p s) := by
  unfold interrupt
  dsimp only
  split
  · exact told_setPort (portKept_of rfl rfl rfl)
  · exact Rel.refl s

theorem entries_lt (u : PortUnit) : u.entries < 64 := (u.cplTail - u.cplHead).isLt

theorem entries_eq (u : PortUnit) : u.entries = (64 - u.cplHead.val + u.cplTail.val) % 64 := by
  unfold PortUnit.entries; rw [Fin.sub_def]

/-- The k-th entry stands in the slot of this number. -/
theorem slotOf_val (u : PortUnit) (k : Nat) : (u.cplHead + Fin.ofNat 64 k).val = (u.cplHead.val + k) % 64 := by
  rw [Fin.val_add, Fin.val_ofNat]; omega

/-- Filling the slot at the tail leaves every entry at its place while a slot is free. -/
theorem portKept_enqueue {u : PortUnit} (h : 0 < u.free) (slot : List Byte) :
    PortKept u { u with cplSlots := u.cplSlots.set u.cplTail.val slot u.cplTail.isLt, cplTail := u.cplTail + 1 } := by
  have hn : (64 - u.cplHead.val + u.cplTail.val) % 64 < 63 := by
    unfold PortUnit.free at h; rw [entries_eq] at h; omega
  have ht := u.cplTail.isLt
  have hh := u.cplHead.isLt
  refine ⟨rfl, rfl, ?_, fun k hk => ?_⟩
  · rw [entries_eq, entries_eq]
    show _ ≤ (64 - u.cplHead.val + (u.cplTail + 1).val) % 64
    rw [Fin.val_add]
    show _ ≤ (64 - u.cplHead.val + (u.cplTail.val + 1) % 64) % 64
    omega
  · rw [entries_eq] at hk
    have hv := slotOf_val u k
    have hne : u.cplTail.val ≠ (u.cplHead + Fin.ofNat 64 k).val := by omega
    simp only [PortUnit.queued, Vector.get_eq_getElem]
    exact Vector.getElem_set_ne _ _ hne

theorem told_enqueue {p : Port} {s : State} (h : 0 < (s.port p).free) (slot : List Byte) : Told s (enqueue p slot s) :=
  (told_setPort (portKept_enqueue h slot)).trans (told_interrupt p _)

/-- After an enqueue with a slot free the entry is the last of the queue. -/
theorem posted_enqueue {p : Port} {s : State} (h : 0 < (s.port p).free) (slot : List Byte) :
    Posted (s.port p) ((enqueue p slot s).port p) slot := by
  have hn : (64 - (s.port p).cplHead.val + (s.port p).cplTail.val) % 64 < 63 := by
    unfold PortUnit.free at h; rw [entries_eq] at h; omega
  have ht := (s.port p).cplTail.isLt
  have hh := (s.port p).cplHead.isLt
  have hi := (told_interrupt p (s.setPort p
    { s.port p with
      cplSlots := (s.port p).cplSlots.set (s.port p).cplTail.val slot (s.port p).cplTail.isLt
      cplTail := (s.port p).cplTail + 1 })).ports p
  rw [setPort_port] at hi
  refine ⟨(s.port p).entries, le_rfl, ?_, ?_⟩
  · refine lt_of_lt_of_le ?_ hi.queue.more
    rw [entries_eq, entries_eq]
    show _ < (64 - (s.port p).cplHead.val + ((s.port p).cplTail + 1).val) % 64
    rw [Fin.val_add]
    show _ < (64 - (s.port p).cplHead.val + ((s.port p).cplTail.val + 1) % 64) % 64
    omega
  · refine (hi.queue.same _ ?_).trans ?_
    · rw [entries_eq, entries_eq]
      show _ < (64 - (s.port p).cplHead.val + ((s.port p).cplTail + 1).val) % 64
      rw [Fin.val_add]
      show _ < (64 - (s.port p).cplHead.val + ((s.port p).cplTail.val + 1) % 64) % 64
      omega
    · have hv := slotOf_val (s.port p) (s.port p).entries
      rw [entries_eq] at hv
      have he : (s.port p).cplTail.val =
          ((s.port p).cplHead + Fin.ofNat 64 ((64 - (s.port p).cplHead.val + (s.port p).cplTail.val) % 64)).val := by
        omega
      rw [← entries_eq] at he
      change (Vector.set (s.port p).cplSlots (s.port p).cplTail.val slot (s.port p).cplTail.isLt).get _ = _
      rw [Vector.get_eq_getElem, Vector.getElem_set, if_pos he]

/-- A posted entry stays posted while entries are kept. -/
theorem posted_mono {u v w : PortUnit} {slot : List Byte} (h : Posted u v slot) (k : QueueKept v w) : Posted u w slot := by
  obtain ⟨i, h1, h2, h3⟩ := h
  exact ⟨i, h1, h2.trans_le k.more, (k.same i h2).trans h3⟩

/-- An entry posted after others was posted after fewer. -/
theorem posted_after {u v w : PortUnit} {slot : List Byte} (k : QueueKept u v) (h : Posted v w slot) : Posted u w slot := by
  obtain ⟨i, h1, h2, h3⟩ := h
  exact ⟨i, k.more.trans h1, h2, h3⟩

/-! ## Notices -/

theorem told_countMissed (p : Port) (s : State) :
    Told s (countPort p (fun c => { c with noticesMissed := sat c.noticesMissed 1 }) s) := by
  cases p <;> exact Rel.of rfl rfl rfl rfl rfl

theorem told_missNotice (p : Port) (k : NoticeKind) (s : State) : Told s (missNotice p k s) := by
  unfold missNotice
  dsimp only
  refine Rel.trans ?_ (told_countMissed p _)
  exact told_setPort (portKept_of rfl rfl rfl)

theorem told_notify (p : Port) (k : NoticeKind) (pay : List Field) (s : State) : Told s (notify p k pay s) := by
  unfold notify
  split
  · next h => exact told_enqueue h _
  · exact told_missNotice p k s

theorem told_notifyBoth (k : NoticeKind) (pay : List Field) (s : State) : Told s (notifyBoth k pay s) :=
  (told_notify .p0 k pay s).trans (told_notify .p1 k pay _)

theorem told_reportMissed (p : Port) (s : State) : Told s (reportMissed p s) := by
  unfold reportMissed
  dsimp only
  split
  · next h =>
    simp only [Bool.and_eq_true, decide_eq_true_eq] at h
    exact (told_enqueue h.1.2 _).trans (told_setPort (portKept_of rfl rfl rfl))
  · exact Rel.refl s

theorem told_emit (p : Port) (e : LinkEvent) (s : State) : Told s (emit p e s) :=
  told_setPort (portKept_of rfl rfl rfl)

theorem told_setFaultRecord (u : FaultUnit) (r : FaultRecord) (s : State) : Told s (setFaultRecord u r s) :=
  Rel.of rfl rfl rfl rfl rfl

theorem told_logFault (u : FaultUnit) (k : FaultKind) (d : Nat) (s : State) : Told s (logFault u k d s) := by
  unfold logFault
  dsimp only
  split
  · split
    · exact told_setFaultRecord _ _ s
    · exact (told_setFaultRecord _ _ s).trans (told_notifyBoth _ _ _)
  · exact Rel.refl s

end Sys2Proof.Laws
end

