-- ==== Sys2Proof/Laws/Reclaim.lean ====
section
/-! SUPPORT. What the operations of the catalog, the hold table and the block map can do: the numbers of the catalog stay
consecutive, and nothing changes but entries, holds, blocks, an offer to the writer, notices, fault records and the
counters of those. -/

namespace Sys2Proof.Laws

open Sys2Proof.Machine

/-! ## Consecutive numbers -/

theorem natsFrom_length : ∀ n a, (natsFrom a n).length = n
  | 0, _ => rfl
  | n + 1, a => by simp [natsFrom, natsFrom_length n (a + 1)]

theorem natsFrom_drop : ∀ k n a, (natsFrom a n).drop k = natsFrom (a + k) (n - k)
  | 0, n, a => by simp
  | k + 1, 0, a => by simp [natsFrom]
  | k + 1, n + 1, a => by
    rw [natsFrom, List.drop_succ_cons, natsFrom_drop k n (a + 1)]
    congr 1 <;> omega

theorem natsFrom_snoc : ∀ n a, natsFrom a (n + 1) = natsFrom a n ++ [a + n]
  | 0, a => by simp [natsFrom]
  | n + 1, a => by
    rw [natsFrom, natsFrom_snoc n (a + 1), natsFrom]
    simp; omega

theorem mem_natsFrom : ∀ {n a x : Nat}, x ∈ natsFrom a n ↔ a ≤ x ∧ x < a + n
  | 0, a, x => by simp [natsFrom]
  | n + 1, a, x => by simp only [natsFrom, List.mem_cons, mem_natsFrom]; omega

/-- Changes that keep every number keep the numbering. -/
theorem numbered_map {c : Catalog} (h : c.Numbered) {es : List Entry}
    (he : es.map (fun e => e.number) = c.entries.map (fun e => e.number)) : ({ c with entries := es } : Catalog).Numbered := by
  have hl : es.length = c.entries.length := by simpa using congrArg List.length he
  obtain ⟨h1, h2, h3, h4⟩ := h
  exact ⟨by simp only [hl]; exact he.trans h1, by simp only [hl]; exact h2, by simp only [hl]; exact h3, h4⟩

/-- Removals at the head keep the numbering. -/
theorem numbered_drop {c : Catalog} (h : c.Numbered) (k : Nat) : ({ c with entries := c.entries.drop k } : Catalog).Numbered := by
  obtain ⟨h1, h2, h3, h4⟩ := h
  refine ⟨?_, ?_, ?_, h4⟩ <;> simp only [List.length_drop]
  · rw [List.map_drop, h1, natsFrom_drop]
    by_cases hk : k ≤ c.entries.length
    · congr 1; omega
    · have : c.entries.length - k = 0 := by omega
      simp [this, natsFrom]
  · omega
  · omega

/-- The joining of the next number at the tail keeps the numbering (R1, R2). -/
theorem numbered_join {c : Catalog} (h : c.Numbered) {e : Entry} (he : e.number = c.next)
    (hn : c.next ≤ Config.lastRecordNumber) (hr : c.entries.length < Config.catalogEntries) :
    ({ c with entries := c.entries ++ [e], next := c.next + 1 } : Catalog).Numbered := by
  obtain ⟨h1, h2, h3, h4⟩ := h
  unfold Config.lastRecordNumber at hn
  unfold Config.catalogEntries at hr
  refine ⟨?_, ?_, ?_, ?_⟩ <;> simp only [List.length_append, List.length_singleton, List.map_append, List.map_cons, List.map_nil]
  · rw [natsFrom_snoc, h1, he]
    have e1 : c.next + 1 - (c.entries.length + 1) = c.next - c.entries.length := by omega
    rw [e1]
    congr 2; omega
  · omega
  · omega
  · omega

/-! ## Entries -/

theorem ent_of {s t : State} (hv : t.apartFromEntries = s.apartFromEntries) (h0 : t.port0 = s.port0)
    (h1 : t.port1 = s.port1) (hc : t.catalog = s.catalog) (hd : t.mem.debt = s.mem.debt) : Ent s t :=
  Rel.of hv h0 h1 hc hd

theorem ent_setEntries {es : List Entry} {s : State}
    (h : s.catalog.Numbered → ({ s.catalog with entries := es } : Catalog).Numbered) : Ent s (setEntries es s) :=
  ⟨rfl, fun p => by cases p <;> exact portKept_refl _, h, id⟩

theorem ent_updateEntry {n : Nat} {f : Entry → Entry} (hf : ∀ e, (f e).number = e.number) (s : State) :
    Ent s (updateEntry n f s) := by
  refine ent_setEntries (fun h => numbered_map h ?_)
  rw [List.map_map]
  apply List.map_congr_left
  intro e _
  simp only [Function.comp]
  split
  · exact hf e
  · rfl

@[simp] theorem mapData_number (f : DataFields → DataFields) (e : Entry) : (e.mapData f).number = e.number := by
  unfold Entry.mapData; split <;> rfl

theorem ent_mapData (n : Nat) (f : DataFields → DataFields) (s : State) : Ent s (updateEntry n (Entry.mapData f) s) :=
  ent_updateEntry (mapData_number f) s

theorem ent_offerBlock (s : State) : Ent s (offerBlock s) := by
  unfold offerBlock
  split
  · exact ent_of rfl rfl rfl rfl rfl
  · exact Rel.refl s

theorem ent_offerEntry (s : State) : Ent s (offerEntry s) := by
  unfold offerEntry
  split
  · exact ent_of rfl rfl rfl rfl rfl
  · exact Rel.refl s

theorem ent_countRetired (s : State) : Ent s (countCatalog (fun c => { c with retired := sat c.retired 1 }) s) := by
  unfold countCatalog; split
  · exact ent_of rfl rfl rfl rfl rfl
  · exact Rel.refl s

theorem ent_countLost (s : State) : Ent s (countCatalog (fun c => { c with lost := sat c.lost 1 }) s) := by
  unfold countCatalog; split
  · exact ent_of rfl rfl rfl rfl rfl
  · exact Rel.refl s

theorem ent_countHeads (n : Nat) (s : State) :
    Ent s (countCatalog (fun c => { c with headRemovals := sat c.headRemovals n }) s) := by
  unfold countCatalog; split
  · exact ent_of rfl rfl rfl rfl rfl
  · exact Rel.refl s

theorem ent_removeHeads (s : State) : Ent s (removeHeads s) := by
  unfold removeHeads
  dsimp only
  split
  · exact Rel.refl s
  · exact ((ent_setEntries (fun h => numbered_drop h _)).trans (ent_countHeads _ _)).trans (ent_offerEntry _)

theorem ent_setEntryState (n : Nat) (st : EntryState) (s : State) : Ent s (setEntryState n st s) := by
  unfold setEntryState
  dsimp only
  have h := ent_updateEntry (n := n) (f := fun e => { e with state := st }) (fun _ => rfl) s
  exact Rel.ite (h.trans (ent_offerEntry _)) h

theorem ent_loseEntry (n : Nat) (s : State) : Ent s (loseEntry n s) :=
  ((ent_mapData n _ s).trans (ent_setEntryState n .lost _)).trans (ent_countLost _)

theorem ent_retireEntry (n : Nat) (s : State) : Ent s (retireEntry n s) :=
  (((ent_mapData n _ s).trans (ent_setEntryState n .retired _)).trans (ent_countRetired _)).trans (ent_removeHeads _)

theorem ent_growEntry (n frames blocks : Nat) (first : Option Nat) (s : State) :
    Ent s (growEntry n frames blocks first s) := ent_mapData n _ s

theorem ent_damageEntry (n : Nat) (epoch : BitVec 16) (s : State) : Ent s (damageEntry n epoch s) := by
  unfold damageEntry
  exact Rel.ite (ent_mapData n _ s) (Rel.refl s)

theorem ent_resumeEntry (n : Nat) (s : State) : Ent s (resumeEntry n s) := by
  refine ent_updateEntry (fun e => ?_) s
  split
  · exact mapData_number _ e
  · rfl

theorem ent_requestMark (n : Nat) (m : Mark) (s : State) : Ent s (requestMark n m s).2 := by
  unfold requestMark
  split
  · split
    · split
      · split
        · exact ent_mapData n _ s
        · exact ent_mapData n _ s
      · exact Rel.refl s
    · exact Rel.refl s
  · exact Rel.refl s

theorem low_of {s t : State} (hv : t.apartFromReclaim = s.apartFromReclaim) (h0 : t.port0 = s.port0)
    (h1 : t.port1 = s.port1) (hc : t.catalog = s.catalog) (hd : t.mem.debt = s.mem.debt) : Low s t :=
  Rel.of hv h0 h1 hc hd

theorem low_mapData (n : Nat) (f : DataFields → DataFields) (s : State) : Low s (updateEntry n (Entry.mapData f) s) :=
  (ent_mapData n f s).low
theorem low_offerBlock (s : State) : Low s (offerBlock s) := (ent_offerBlock s).low
theorem low_offerEntry (s : State) : Low s (offerEntry s) := (ent_offerEntry s).low
theorem low_removeHeads (s : State) : Low s (removeHeads s) := (ent_removeHeads s).low
theorem low_setEntryState (n : Nat) (st : EntryState) (s : State) : Low s (setEntryState n st s) := (ent_setEntryState n st s).low
theorem low_loseEntry (n : Nat) (s : State) : Low s (loseEntry n s) := (ent_loseEntry n s).low
theorem low_retireEntry (n : Nat) (s : State) : Low s (retireEntry n s) := (ent_retireEntry n s).low
theorem low_growEntry (n frames blocks : Nat) (first : Option Nat) (s : State) :
    Low s (growEntry n frames blocks first s) := (ent_growEntry n frames blocks first s).low
theorem low_damageEntry (n : Nat) (epoch : BitVec 16) (s : State) : Low s (damageEntry n epoch s) := (ent_damageEntry n epoch s).low
theorem low_resumeEntry (n : Nat) (s : State) : Low s (resumeEntry n s) := (ent_resumeEntry n s).low
theorem low_requestMark (n : Nat) (m : Mark) (s : State) : Low s (requestMark n m s).2 := (ent_requestMark n m s).low

/-! ## Holds -/

theorem low_setSlot (p : Port) (i : Fin 16) (h : Option Hold) (s : State) : Low s (s.setBank p ((s.bank p).setSlot i h)) := by
  cases p <;> exact low_of rfl rfl rfl rfl rfl

theorem low_freeHold (p : Port) (i : Fin 16) (s : State) : Low s (freeHold p i s) := by
  unfold freeHold
  split
  · exact Rel.refl s
  · dsimp only
    refine Rel.ite ?_ ?_
    · exact ((low_setSlot p i none s).trans (low_offerBlock _)).trans (low_offerEntry _)
    · exact (low_setSlot p i none s).trans (low_offerBlock _)

theorem low_countRevoked (s : State) : Low s (countHolds (fun c => { c with revoked := sat c.revoked 1 }) s) :=
  low_of rfl rfl rfl rfl rfl

theorem low_revokeSlot (p : Port) (n : Nat) (acc : Nat × State) (i : Fin 16) : Low acc.2 (revokeSlot p n acc i).2 := by
  unfold revokeSlot
  split
  · exact Rel.refl _
  · split
    · exact ((low_freeHold p i acc.2).trans (low_countRevoked _)).trans (told_notify _ _ _ _).low
    · exact Rel.refl _

theorem low_revokeFold (p : Port) (n : Nat) : ∀ (l : List (Fin 16)) (acc : Nat × State),
    Low acc.2 (l.foldl (revokeSlot p n) acc).2
  | [], _ => Rel.refl _
  | i :: l, acc => (low_revokeSlot p n acc i).trans (low_revokeFold p n l _)

theorem low_revokeHolds (n : Nat) (s : State) : Low s (revokeHolds n s).2 :=
  (low_revokeFold .p0 n slots16 (0, s)).trans (low_revokeFold .p1 n slots16 _)

/-! ## Blocks -/

theorem low_blocks (m : BlockMap) (s : State) : Low s { s with blocks := m } := low_of rfl rfl rfl rfl rfl

theorem low_modifyBlock (b : Nat) (f : Block → Block) (s : State) : Low s (modifyBlock b f s) := low_blocks _ s

theorem low_countBlocksRetired (s : State) :
    Low s (countMemory (fun c => { c with blocksRetired := sat c.blocksRetired 1 }) s) := low_of rfl rfl rfl rfl rfl

theorem low_countReclaims (s : State) : Low s (countMemory (fun c => { c with reclaims := sat c.reclaims 1 }) s) :=
  low_of rfl rfl rfl rfl rfl

theorem low_retireBlock (b : Nat) (s : State) : Low s (retireBlock b s) :=
  (((low_modifyBlock b _ s).trans (low_blocks _ _)).trans (low_countBlocksRetired _)).trans (told_logFault _ _ _ _).low

theorem low_returnBlock (b : Nat) (s : State) : Low s (returnBlock b s) := by
  unfold returnBlock
  refine Rel.ite (low_retireBlock b s) ?_
  exact ((low_modifyBlock b _ s).trans (low_blocks _ _)).trans (low_offerBlock _)

theorem low_returnChain (bs : List Nat) (s : State) : Low s (returnChain bs s) :=
  Rel.foldl _ (fun s b => low_returnBlock b s) bs s

theorem low_releaseBlock (s : State) (b : Nat) : Low s (releaseBlock s b) := by
  unfold releaseBlock
  exact Rel.ite (low_returnBlock b s) (told_logFault _ _ _ s).low

theorem low_releaseBlocks (bs : List Nat) (s : State) : Low s (releaseBlocks bs s) :=
  Rel.foldl _ low_releaseBlock bs s

theorem low_adoptBlocks (n : Nat) (bs : List Nat) (s : State) : Low s (adoptBlocks n bs s) :=
  Rel.foldl _ (fun s b => low_modifyBlock b _ s) bs s

theorem low_growBlock (b held per : Nat) (s : State) : Low s (growBlock b held per s) := low_modifyBlock b _ s

theorem low_storeBlock (b : Option Nat) (s : State) : Low s (storeBlock b s) := by
  unfold storeBlock
  split
  · exact Rel.refl s
  · exact low_modifyBlock _ _ s

theorem low_suspectMark (b : Nat) (s : State) : Low s (suspectMark b s) := by
  unfold suspectMark
  split
  · exact low_modifyBlock _ _ s
  · exact low_modifyBlock _ _ s
  · exact (low_blocks _ s).trans (low_retireBlock b _)
  · exact Rel.refl s

/-! ## Reclaim -/

theorem low_takeRecord (e : Entry) (o : Occasion) (s : State) : Low s (takeRecord e o s) := by
  unfold takeRecord
  split
  · exact Rel.refl s
  · dsimp only
    refine Rel.trans ?_ (low_countReclaims _)
    refine Rel.trans ?_ (low_blocks _ _)
    refine Rel.trans ?_ (low_returnChain _ _)
    refine Rel.trans (low_revokeHolds e.number s) ?_
    exact Rel.ite (low_loseEntry _ _) (low_retireEntry _ _)

theorem low_reclaimFailed (r : Bool) (s : State) : Low s (reclaimFailed r s) := by
  unfold reclaimFailed
  exact Rel.ite (Rel.refl s) (low_of rfl rfl rfl rfl rfl)

theorem low_reclaimLoop (r : Bool) : ∀ (fuel : Nat) (s : State), Low s (reclaimLoop r fuel s)
  | 0, s => Rel.refl s
  | fuel + 1, s => by
    unfold reclaimLoop
    split
    · exact Rel.refl s
    · split
      · exact low_reclaimFailed r s
      · exact (low_takeRecord _ _ s).trans (low_reclaimLoop r fuel _)

theorem low_headReclaim (r : Bool) (s : State) : Low s (headReclaim r s) := by
  unfold headReclaim
  split
  · exact Rel.refl s
  · exact Rel.ite (Rel.ite (low_takeRecord _ _ s) (low_reclaimFailed r s)) (Rel.refl s)

theorem low_serveBlock (o l : Option Nat) (s : State) : Low s (serveBlock o l s).2 := by
  unfold serveBlock
  split
  · exact Rel.refl s
  · dsimp only
    split
    · exact (low_blocks _ s).trans (low_modifyBlock _ _ _)
    · exact ((low_blocks _ s).trans (low_modifyBlock _ _ _)).trans (low_modifyBlock _ _ _)

theorem low_takeBlock (o l : Option Nat) (r : Bool) (s : State) : Low s (takeBlock o l r s).2 := by
  unfold takeBlock
  split
  · split
    · exact (told_logFault _ _ _ s).low
    · exact (low_reclaimLoop r _ s).trans (low_serveBlock _ _ _)
  · exact (low_reclaimLoop r _ s).trans (low_serveBlock _ _ _)

/-! ## New entries -/

theorem cap_join (e : Entry) (s : State) (he : e.number = s.catalog.next)
    (hn : s.catalog.next ≤ Config.lastRecordNumber) (hr : s.catalog.entries.length < Config.catalogEntries) :
    Cap s { s with catalog := { s.catalog with entries := s.catalog.entries ++ [e], next := s.catalog.next + 1 } } :=
  ⟨rfl, fun p => by cases p <;> exact portKept_refl _, fun h => numbered_join h he hn hr, id⟩

/-- The room and numbers that an acceptance needs keep the numbering. -/
theorem cap_joinEntry (st : EntryState) (a : Bool) (body : Body) (s : State)
    (hn : s.catalog.next ≤ Config.lastRecordNumber) (hr : s.catalog.entries.length < Config.catalogEntries) :
    Cap s (joinEntry st a body s).2 := by
  unfold joinEntry
  dsimp only
  refine Rel.trans ?_ (low_removeHeads _).cap
  refine Rel.trans (cap_join { number := s.catalog.next, state := st, session := s.catalog.session, archReq := a, body := body }
    s rfl hn hr) ?_
  unfold countCatalog
  split
  · exact Rel.of rfl rfl rfl rfl rfl
  · exact Rel.refl _

theorem low_next {s t : State} (h : Low s t) : t.catalog.next = s.catalog.next := by
  have e := congrArg (fun x : State => x.catalog.next) h.view
  exact e

theorem cap_countStalls (s : State) : Cap s (countCatalog (fun c => { c with fullStalls := sat c.fullStalls 1 }) s) := by
  unfold countCatalog; split
  · exact Rel.of rfl rfl rfl rfl rfl
  · exact Rel.refl s

theorem cap_askFull (st : EntryState) (a : Bool) (body : Body) (r : Bool) (s : State)
    (hn : s.catalog.next ≤ Config.lastRecordNumber) : Cap s (askFull st a body r s).2 := by
  unfold askFull
  dsimp only
  have h := low_headReclaim r s
  split
  · next hr => exact h.cap.trans (cap_joinEntry st a body _ (by rw [low_next h]; exact hn) hr)
  · exact h.cap.trans (Rel.ite (Rel.refl _) (cap_countStalls _))

theorem cap_askEntry (st : EntryState) (a : Bool) (body : Body) (r : Bool) (s : State) :
    Cap s (askEntry st a body r s).2 := by
  unfold askEntry
  split
  · exact Rel.refl s
  · next hn =>
    split
    · exact (told_logFault _ _ _ s).cap
    · split
      · next hr => exact cap_joinEntry _ a body s (Nat.le_of_not_lt hn) hr
      · exact cap_askFull _ a body r s (Nat.le_of_not_lt hn)

end Sys2Proof.Laws
end

