-- ==== Sys2Proof/Laws/Archive.lean ====
section
/-! SUPPORT. What the arbiter, the drain check and the archive engine can do. -/

namespace Sys2Proof.Laws

open Sys2Proof.Machine

/-! ## The arbiter -/

/-- What a grant leaves of the memory service: everything but what is asked, what is granted, the pointer and a debt
that can only fall. -/
structure Granted (m k : MemService) : Prop where
  cal : k.cal = m.cal
  order : k.order = m.order
  phase : k.refreshPhase = m.refreshPhase
  cells : k.cells = m.cells
  flipped : k.flipped = m.flipped
  late : k.late = m.late
  debt : k.debt ≤ m.debt

theorem granted_refl (m : MemService) : Granted m m := ⟨rfl, rfl, rfl, rfl, rfl, rfl, le_rfl⟩

theorem granted_refresh {m k : MemService} {b : Bool} (h : m.grantRefresh b = some k) : Granted m k := by
  unfold MemService.grantRefresh at h
  split at h
  · cases h; exact ⟨rfl, rfl, rfl, rfl, rfl, rfl, Nat.sub_le _ _⟩
  · cases h

theorem granted_writer {m k : MemService} {b : Bool} (h : m.grantWriter b = some k) : Granted m k := by
  unfold MemService.grantWriter at h
  split at h
  · split at h
    · cases h; exact ⟨rfl, rfl, rfl, rfl, rfl, rfl, le_rfl⟩
    · cases h
  · cases h

theorem granted_archive {m k : MemService} (h : m.grantArchive = some k) : Granted m k := by
  unfold MemService.grantArchive at h
  split at h
  · cases h; exact ⟨rfl, rfl, rfl, rfl, rfl, rfl, le_rfl⟩
  · cases h

theorem granted_windowOf {m k : MemService} {p : Port} (h : m.grantWindowOf p = some k) : Granted m k := by
  unfold MemService.grantWindowOf at h
  split at h
  · cases h
  · cases h; cases p <;> exact ⟨rfl, rfl, rfl, rfl, rfl, rfl, le_rfl⟩

theorem granted_or {m k : MemService} {a b : Option MemService} (ha : ∀ k, a = some k → Granted m k)
    (hb : ∀ k, b = some k → Granted m k) (h : a.or b = some k) : Granted m k := by
  cases a with
  | none => exact hb k h
  | some x => cases h; exact ha _ rfl

theorem granted_window {m k : MemService} (h : m.grantWindow = some k) : Granted m k :=
  granted_or (fun _ => granted_windowOf) (fun _ => granted_windowOf) h

theorem granted_grant {m k : MemService} {u : Bool} (h : m.grant u = some k) : Granted m k := by
  refine granted_or (fun _ => granted_refresh) (fun _ => granted_or (fun _ => granted_writer)
    (fun _ => granted_or (fun _ => granted_refresh) (fun _ h => ?_))) h
  split at h
  · exact granted_or (fun _ => granted_writer) (fun _ => granted_or (fun _ => granted_archive) (fun _ => granted_window)) h
  · exact granted_or (fun _ => granted_window) (fun _ => granted_or (fun _ => granted_writer) (fun _ => granted_archive)) h

theorem granted_getD (m : MemService) (u : Bool) : Granted m ((m.grant u).getD m) := by
  cases h : m.grant u with
  | none => exact granted_refl m
  | some k => exact granted_grant h

theorem eng_mem {s : State} {k : MemService} (h : Granted s.mem k) : Eng s { s with mem := k } := by
  refine ⟨?_, fun p => by cases p <;> exact portKept_refl _, id, fun hd => le_trans h.debt hd⟩
  obtain ⟨h1, h2, h3, h4, h5, h6, -⟩ := h
  cases k
  dsimp only at h1 h2 h3 h4 h5 h6
  subst h1 h2 h3 h4 h5 h6
  rfl

/-- The writer's bursts dropped at a STOP. -/
theorem granted_dropWriter (m : MemService) : Granted m m.dropWriter := ⟨rfl, rfl, rfl, rfl, rfl, rfl, le_rfl⟩

theorem eng_dropWriter (s : State) : Eng s (setMem MemService.dropWriter s) := eng_mem (granted_dropWriter _)

/-- The arbiter changes the memory service only. -/
theorem arbitrate_eq (s : State) : arbitrate s = { s with mem := (arbitrate s).mem } := by
  unfold arbitrate; split <;> rfl

theorem granted_arbitrate (s : State) : Granted s.mem (arbitrate s).mem := by
  unfold arbitrate
  split
  · exact granted_getD s.mem _
  · exact granted_refl _

theorem eng_arbitrate (s : State) : Eng s (arbitrate s) := by
  rw [arbitrate_eq]; exact eng_mem (granted_arbitrate s)

/-! ## The end of a session -/

theorem eng_of {s t : State} (hv : t.apartFromArchive = s.apartFromArchive) (h0 : t.port0 = s.port0)
    (h1 : t.port1 = s.port1) (hc : t.catalog = s.catalog) (hd : t.mem.debt = s.mem.debt) : Eng s t :=
  Rel.of hv h0 h1 hc hd

theorem eng_enterStopped {f : DrainFlags} {s : State} (h : s.session.state = .draining) : Eng s (enterStopped f s) := by
  refine eng_of ?_ rfl rfl rfl rfl
  obtain ⟨_, _, _, _, _, _, _, _, _, session, _, _, _, _, _, _, _⟩ := s
  cases session
  dsimp only at h
  subst h
  rfl

theorem eng_sendDrainDone (s : State) : Eng s (sendDrainDone s) := by
  unfold sendDrainDone
  split
  · exact Rel.refl s
  · dsimp only
    have h : ∀ x : State,
        Eng x { x with session := { x.session with drain0 := false, drain1 := false, drainDue := none } } :=
      fun x => eng_of rfl rfl rfl rfl rfl
    refine Rel.trans ?_ (h _)
    have k : ∀ (c : Bool) (p : Port) (pay : List Field) (x : State),
        Eng x (if c then notify p .drainDone pay x else x) :=
      fun c p pay x => Rel.ite (told_notify _ _ _ _).eng (Rel.refl _)
    exact (k _ _ _ _).trans (k _ _ _ _)

theorem eng_drainRecheck (s : State) : Eng s (drainRecheck s) := by
  unfold drainRecheck
  split
  · next h =>
    simp only [Bool.and_eq_true, decide_eq_true_eq] at h
    exact eng_enterStopped h.1
  · exact Rel.refl s

/-! ## The engine's fields -/

theorem eng_setEngine {f : Engine → Engine} {s : State} (hb : (f s.engine).bound = s.engine.bound)
    (he : (f s.engine).ending = s.engine.ending) : Eng s (setEngine f s) := by
  refine eng_of ?_ rfl rfl rfl rfl
  unfold setEngine
  generalize f s.engine = g at *
  cases g
  dsimp only at hb he
  subst hb he
  rfl

theorem rel_onBound {v : State → State} {f : Port → State → State} {s : State}
    (h : ∀ p, s.engine.bound = some p → Rel v s (f p s)) : Rel v s (onBound f s) := by
  unfold onBound
  split
  · exact Rel.refl s
  · next p hp => exact h p hp

theorem eng_bufferLeft (n : Nat) (s : State) : Eng s (bufferLeft n s) := by
  unfold bufferLeft
  dsimp only
  refine Rel.ite ?_ (eng_setEngine rfl rfl)
  exact Rel.trans (eng_setEngine rfl rfl) (rel_onBound (fun p _ => (told_notify _ _ _ _).eng))

theorem eng_dropClaim (s : State) : Eng s (dropClaim s) := by
  unfold dropClaim
  split
  · exact Rel.refl s
  · dsimp only
    have h : Eng s (offerBlock (setEngine (fun g => { g with claim := none }) s)) :=
      (eng_setEngine rfl rfl).trans (ent_offerBlock _).eng
    exact Rel.ite (h.trans (ent_offerEntry _).eng) h

theorem eng_skipPositions (s : State) : Eng s (skipPositions s) := eng_setEngine rfl rfl

theorem eng_issueBytes (b : Buffer) (off : Nat) (bytes : List Byte) (s : State) : Eng s (issueBytes b off bytes s) := by
  unfold issueBytes
  dsimp only
  refine Rel.trans (eng_setEngine (s := s) rfl rfl) (rel_onBound (fun p _ => ?_))
  exact Rel.foldl _ (fun s w => (told_emit _ _ s).eng) _ _

theorem eng_takePlace (n : Nat) (s : State) : Eng s (takePlace n s) := eng_setEngine rfl rfl

theorem eng_placeFrame (b : Buffer) (bytes : List Byte) (s : State) : Eng s (placeFrame b bytes s) :=
  (eng_takePlace _ s).trans (eng_issueBytes _ _ _ _)

theorem eng_advanceStage (st : Stage) (s : State) : Eng s (advanceStage st s) := eng_setEngine rfl rfl

theorem eng_finishEntry (s : State) : Eng s (finishEntry s) := eng_setEngine rfl rfl

theorem eng_closeBuffer (f : Bool) (s : State) : Eng s (closeBuffer f s) := eng_setEngine rfl rfl

/-- The writing of a BUFFER_FILLED while the bound port has a slot free. -/
theorem eng_writeFilled {s : State} (h : s.boundFree = true) : Eng s (writeFilled s) := by
  unfold writeFilled
  split
  · exact Rel.refl s
  · refine rel_onBound (fun p hp => (told_enqueue ?_ _).eng)
    simpa [State.boundFree, hp] using h

/-! ## Completions -/

theorem eng_countArchive {f : ArchiveCounters → ArchiveCounters} {s : State}
    (h : (f s.counters.archive).bytesWritten = s.counters.archive.bytesWritten)
    (h1 : (f s.counters.archive).linkErrors = s.counters.archive.linkErrors)
    (h2 : (f s.counters.archive).damagedSent = s.counters.archive.damagedSent) : Eng s (countArchive f s) := by
  refine eng_of ?_ rfl rfl rfl rfl
  unfold countArchive
  generalize f s.counters.archive = g at *
  cases g
  dsimp only at h h1 h2
  subst h h1 h2
  rfl

theorem eng_completeEntry (n : Nat) (s : State) : Eng s (completeEntry n s) := by
  unfold completeEntry
  split
  · exact Rel.refl s
  · split
    · refine Rel.ite ?_ (told_logFault _ _ _ s).eng
      exact ((ent_setEntryState _ _ s).eng.trans (eng_countArchive rfl rfl rfl)).trans (ent_offerBlock _).eng
    · exact (ent_retireEntry n s).eng
    · exact (ent_retireEntry n s).eng
    · exact (told_logFault _ _ _ s).eng

theorem eng_completeAwaiting (s : State) (a : Nat × Bool) : Eng s (completeAwaiting s a) := by
  unfold completeAwaiting
  dsimp only
  exact Rel.ite ((eng_completeEntry _ s).trans (eng_dropClaim _)) (eng_completeEntry _ s)

theorem eng_advanceCursor (s : State) : Eng s (advanceCursor s) := eng_setEngine rfl rfl

theorem eng_afterFilled (s : State) : Eng s (afterFilled s) := by
  unfold afterFilled
  dsimp only
  refine Rel.trans ?_ (eng_drainRecheck _)
  refine Rel.trans ?_ (eng_setEngine rfl rfl)
  refine Rel.trans ?_ (eng_advanceCursor _)
  refine Rel.trans ?_ (Rel.foldl _ eng_completeAwaiting _ _)
  refine Rel.trans ?_ (eng_countArchive rfl rfl rfl)
  exact (eng_setEngine rfl rfl).trans (eng_bufferLeft _ _)

/-! ## Production -/

theorem eng_askArchiveBurst (d : DataFields) (f : DataFrame) (s : State) : Eng s (askArchiveBurst d f s) := by
  unfold askArchiveBurst
  split
  · exact Rel.refl s
  · exact Rel.refl s
  · split
    · exact Rel.refl s
    · exact eng_mem ⟨rfl, rfl, rfl, rfl, rfl, rfl, le_rfl⟩

theorem eng_placeData (b : Buffer) (e : Entry) (d : DataFields) (n : Nat) (s : State) : Eng s (placeData b e d n s) :=
  ((eng_takePlace _ s).trans (eng_setEngine rfl rfl)).trans (eng_issueBytes _ _ _ _)

theorem eng_issueData (b : Buffer) (f : DataFrame) (s : State) : Eng s (issueData b f s) :=
  Rel.trans (eng_setEngine rfl rfl) (eng_issueBytes _ _ _ _)

theorem eng_finishData (d : DataFields) (f : DataFrame) (s : State) : Eng s (finishData d f s) :=
  Rel.trans (eng_setEngine rfl rfl) (eng_advanceStage _ _)

theorem eng_produceFrame (b : Buffer) (e : Entry) (s : State) : Eng s (produceFrame b e s).1 := by
  have whole : ∀ (bytes : List Byte) (left : Nat) (after : State → State), (∀ t, Eng t (after t)) →
      Eng s (if bytes.length ≤ left then (after (placeFrame b bytes s), true) else (closeBuffer false s, true)).1 := by
    intro bytes left after ha
    split
    · exact (eng_placeFrame b bytes s).trans (ha _)
    · exact eng_closeBuffer false s
  unfold produceFrame
  dsimp only
  split
  · exact whole _ _ _ (eng_advanceStage _)
  · split
    · exact eng_placeData _ _ _ _ s
    · exact eng_closeBuffer false s
  · exact whole _ _ _ eng_finishEntry
  · exact whole _ _ _ (fun t => (eng_countArchive rfl rfl rfl).trans (eng_finishEntry _))
  · exact whole _ _ _ (fun t => (eng_countArchive rfl rfl rfl).trans (eng_finishEntry _))
  · exact Rel.refl s

theorem eng_produce (s : State) : Eng s (produce s).1 := by
  unfold produce
  split
  · exact Rel.refl s
  · split
    · dsimp only; exact eng_setEngine rfl rfl
    · split
      · split
        · exact eng_issueData _ _ s
        · split
          · exact eng_askArchiveBurst _ _ s
          · exact eng_finishData _ _ s
      · exact eng_produceFrame _ _ s

/-! ## Bit errors and the DATA frame in production (log entry 5) -/

theorem toggleFlip_other {k : Nat × Nat} {g : Nat} (h : k.1 ≠ g) (fs : List (Nat × Nat)) :
    (toggleFlip k fs).filter (fun x => decide (x.1 = g)) = fs.filter (fun x => decide (x.1 = g)) := by
  unfold toggleFlip
  split
  · next hm =>
    clear hm
    induction fs with
    | nil => rfl
    | cons x fs ih =>
      rw [List.erase_cons]
      split
      · next e => rw [beq_iff_eq.mp e]; exact (List.filter_cons_of_neg (by simpa using h)).symm
      · rw [List.filter_cons, List.filter_cons, ih]
  · exact List.filter_cons_of_neg (by simpa using h)

/-- A strike leaves the granules of the DATA frame in production as they are (log entry 5). -/
theorem strikeAll_held {ks : List Strike} {s : State} {g : Nat} (h : s.engine.holdsGranule g = true) :
    (strikeAll ks s).mem.flipped.filter (fun x => decide (x.1 = g)) = s.mem.flipped.filter (fun x => decide (x.1 = g)) := by
  show ((List.filter _ (s.mem.late ++ ks.map _)).foldl (fun fs k => toggleFlip k fs) s.mem.flipped).filter _ = _
  generalize s.mem.late ++ ks.map _ = all
  generalize s.mem.flipped = fs
  induction all generalizing fs with
  | nil => rfl
  | cons k all ih =>
    rw [List.filter_cons]
    split
    · next hk =>
      rw [List.foldl_cons, ih, toggleFlip_other]
      rintro rfl
      simp [h] at hk
    · exact ih fs

theorem flipMask_filter (m : MemService) (a : Nat) :
    m.flipMask a =
      (m.flipped.filter (fun x => decide (x.1 = granuleOf a))).foldl
        (fun (v : Byte) k => if k.2 / 8 = a % Config.granuleBytes then v ^^^ (1 <<< (k.2 % 8)) else v) 0 := by
  unfold MemService.flipMask
  rw [List.foldl_filter]
  congr 1
  funext v k
  by_cases h1 : k.1 = granuleOf a <;> by_cases h2 : k.2 / 8 = a % Config.granuleBytes <;> simp [h1, h2]

theorem mem_granulesOf {addr len a : Nat} (h1 : addr ≤ a) (h2 : a < addr + len) : granuleOf a ∈ granulesOf addr len :=
  mem_natsFrom.mpr (by unfold granuleOf Config.granuleBytes; omega)

/-- What a burst reads does not change while the granules it reads hold bytes of the DATA frame in production: the header
that was issued with the frame shows what its bursts carry (R79, R80, R81; log entries 5, 9). -/
theorem readBurst_strikeAll {ks : List Strike} {s : State} {addr len : Nat}
    (h : ∀ g ∈ granulesOf addr len, s.engine.holdsGranule g = true) :
    (strikeAll ks s).mem.readBurst addr len = s.mem.readBurst addr len := by
  have flips : ∀ g ∈ granulesOf addr len, (strikeAll ks s).mem.flips g = s.mem.flips g := fun g hg =>
    congrArg List.length (strikeAll_held (h g hg))
  have data : ∀ a ∈ natsFrom addr len, (strikeAll ks s).mem.returned a = s.mem.returned a := by
    intro a ha
    have hg := mem_granulesOf (mem_natsFrom.mp ha).1 (mem_natsFrom.mp ha).2
    have e : (strikeAll ks s).mem.asRead a = s.mem.asRead a := by
      unfold MemService.asRead
      rw [flipMask_filter, flipMask_filter, strikeAll_held (h _ hg)]; rfl
    unfold MemService.returned
    rw [flips _ hg, e]; rfl
  unfold MemService.readBurst
  rw [List.map_congr_left data, List.filter_congr (fun g hg => congrArg (fun n => decide (n = 1)) (flips g hg)),
    List.filter_congr (fun g hg => congrArg (fun n => decide (2 ≤ n)) (flips g hg))]

/-! ## When an archive burst is asked (R141) -/

theorem issueBytes_mem (b : Buffer) (off : Nat) (bytes : List Byte) (s : State) : (issueBytes b off bytes s).mem = s.mem := by
  have emits : ∀ (p : Port) (ws : List (OutWrite × List Byte)) (x : State),
      (ws.foldl (fun s w => emit p (.archiveWrite w.1.addr w.2) s) x).mem = x.mem := by
    intro p ws
    induction ws with
    | nil => intro x; rfl
    | cons w ws ih => intro x; rw [List.foldl_cons, ih]; cases p <;> rfl
  unfold issueBytes onBound
  dsimp only
  split
  · rfl
  · rw [emits]; rfl

/-- A burst of a DATA frame is asked only when the bytes of the previous one have been issued as writes, and none of the
engine's is asked or in progress. -/
theorem produce_asks {s : State} (h : (produce s).1.mem ≠ s.mem) :
    s.mem.archiveAsk = none ∧ (∀ b d, s.mem.busy ≠ some (.archive b d)) ∧
      ∃ f, s.engine.progress.frame = some f ∧ f.got = [] ∧ f.sent < f.len := by
  have keepsFrame : ∀ (b : Buffer) (e : Entry), (produceFrame b e s).1.mem = s.mem := by
    intro b e
    have whole : ∀ (bytes : List Byte) (left : Nat) (after : State → State), (∀ t, (after t).mem = t.mem) →
        (if bytes.length ≤ left then (after (placeFrame b bytes s), true) else (closeBuffer false s, true)).1.mem = s.mem := by
      intro bytes left after ha
      split
      · exact (ha _).trans (issueBytes_mem _ _ _ _)
      · rfl
    unfold produceFrame
    dsimp only
    split
    · exact whole _ _ _ (fun _ => rfl)
    · split
      · exact issueBytes_mem _ _ _ _
      · rfl
    · exact whole _ _ _ (fun _ => rfl)
    · exact whole _ _ (fun s => finishEntry (countArchive _ s)) (fun _ => rfl)
    · exact whole _ _ (fun s => finishEntry (countArchive _ s)) (fun _ => rfl)
    · rfl
  unfold produce at h
  split at h
  · exact absurd rfl h
  · split at h
    · exact absurd rfl h
    · split at h
      · next f d hf _ =>
        split at h
        · exact absurd (issueBytes_mem _ _ _ _) h
        · next hg =>
          split at h
          · next hl =>
            unfold askArchiveBurst at h
            split at h
            · exact absurd rfl h
            · exact absurd rfl h
            · next ha hb =>
              exact ⟨ha, fun b' d' hbd => hb b' d' hbd, f, hf, by simpa using hg, hl⟩
          · exact absurd rfl h
      · exact absurd (keepsFrame _ _) h

theorem eng_enterIdle (s : State) : Eng s (enterIdle s).1 := by
  unfold enterIdle
  split
  · exact Rel.refl s
  · split
    · dsimp only; exact eng_setEngine rfl rfl
    · split
      · exact eng_closeBuffer true s
      · dsimp only; exact eng_setEngine rfl rfl

theorem eng_examine (s : State) : Eng s (examine s).1 := by
  unfold examine
  dsimp only
  have h := eng_skipPositions s
  split
  · exact h.trans (eng_enterIdle _)
  · split
    · exact h
    · split
      · exact h.trans (eng_closeBuffer false _)
      · exact h.trans (eng_enterIdle _)

theorem eng_engineStep (s : State) : Eng s (engineStep s).1 := by
  unfold engineStep
  split
  · exact Rel.refl s
  · split
    · split
      · exact Rel.refl s
      · split
        · next h => exact (eng_writeFilled h).trans (eng_afterFilled _)
        · dsimp only; exact eng_setEngine rfl rfl
    · split
      · exact eng_closeBuffer false s
      · split
        · exact eng_produce s
        · split
          · exact Rel.refl s
          · exact eng_examine s

theorem eng_engineLoop : ∀ (fuel : Nat) (s : State), Eng s (engineLoop fuel s)
  | 0, s => Rel.refl s
  | fuel + 1, s => by
    have h := eng_engineStep s
    unfold engineLoop
    split
    · next e => rw [e] at h; exact h.trans (eng_engineLoop fuel _)
    · next e => rw [e] at h; exact h

theorem eng_runEngine (s : State) : Eng s (runEngine s) := eng_engineLoop 16 s

/-- Everything the engine, a DRAIN_DONE and the arbiter can do after an event. -/
theorem eng_engineEvent (s : State) : Eng s (engineEvent s) :=
  ((eng_runEngine s).trans (eng_sendDrainDone _)).trans (eng_arbitrate _)

/-! ## Starts and rewinds -/

theorem eng_startEntry (e : Entry) (s : State) : Eng s (startEntry e s) := eng_setEngine rfl rfl

theorem eng_rewindEntries (c : Bool) (s : State) : Eng s (rewindEntries c s) := by
  unfold rewindEntries
  dsimp only
  have h1 : Eng s (s.engine.unfinished.foldl (fun s a => if a.2 then resumeEntry a.1 s else s) (dropClaim s)) :=
    (eng_dropClaim s).trans
      (Rel.foldl _ (fun s a => Rel.ite (ent_resumeEntry a.1 s).eng (Rel.refl s)) s.engine.unfinished _)
  have h2 : ∀ (b : Bool) (x : State),
      Eng x (if b then countArchive (fun c => { c with rewinds := sat c.rewinds 1 }) x else x) :=
    fun b x => Rel.ite (eng_countArchive rfl rfl rfl) (Rel.refl _)
  exact Rel.trans (Rel.trans h1 (h2 _ _)) (eng_of rfl rfl rfl rfl rfl)

/-- Nothing runs while the engine is UNBOUND, FAULTED or ending its binding. -/
theorem runEngine_quiet {s : State}
    (h : s.engine.bound = none ∨ s.engine.ending.isSome = true ∨ s.engine.state = .unbound ∨ s.engine.state = .faulted) :
    runEngine s = s := by
  have hs : engineStep s = (s, false) := by
    unfold engineStep
    rw [if_pos]
    rcases h with h | h | h | h <;> simp [h]
  unfold runEngine engineLoop
  rw [hs]

end Sys2Proof.Laws
end

