-- ==== Sys2Proof/Laws/Capture.lean ====
section
/-! SUPPORT. What the trigger aligner and the record writer can do as they settle triggers, cuts and the end of a session. -/

namespace Sys2Proof.Laws

open Sys2Proof.Machine

theorem cap_of {s t : State} (hv : t.apartFromCapture = s.apartFromCapture) (h0 : t.port0 = s.port0)
    (h1 : t.port1 = s.port1) (hc : t.catalog = s.catalog) (hd : t.mem.debt = s.mem.debt) : Cap s t :=
  Rel.of hv h0 h1 hc hd

/-! ## Fields -/

theorem cap_setWriter {f : Writer → Writer} {s : State} (h : (f s.writer).params = s.writer.params) :
    Cap s (setWriter f s) := by
  refine cap_of ?_ rfl rfl rfl rfl
  unfold setWriter
  generalize f s.writer = g at *
  cases g
  dsimp only at h
  subst h
  rfl

theorem cap_setAligner {f : Aligner → Aligner} {s : State} (h : (f s.aligner).params = s.aligner.params) :
    Cap s (setAligner f s) := by
  refine cap_of ?_ rfl rfl rfl rfl
  obtain ⟨_, _, _, _, _, _, aligner, _, _, session, _, _, _, _, _, _, _⟩ := s
  cases session with
  | mk _ _ st _ _ _ _ _ _ =>
    unfold setAligner
    dsimp only at h ⊢
    generalize f aligner = g at *
    cases g
    dsimp only at h
    subst h
    cases st <;> rfl

theorem cap_setItems (is : List Item) (s : State) : Cap s (setItems is s) := by
  refine cap_of ?_ rfl rfl rfl rfl
  unfold setItems Intake.examineUrgency
  dsimp only
  split <;> rfl

theorem cap_countTrigger {f : TriggerCounters → TriggerCounters} {s : State}
    (h : (f s.counters.trigger).forced = s.counters.trigger.forced) : Cap s (countTrigger f s) := by
  unfold countTrigger
  split
  · refine cap_of ?_ rfl rfl rfl rfl
    generalize f s.counters.trigger = g at *
    cases g
    dsimp only at h
    subst h
    rfl
  · exact Rel.refl s

theorem cap_countCatalog (f : CatalogCounters → CatalogCounters) (s : State) : Cap s (countCatalog f s) := by
  unfold countCatalog
  split
  · exact cap_of rfl rfl rfl rfl rfl
  · exact Rel.refl s

theorem cap_countStopDrops (n : Nat) (s : State) : Cap s (countStopDrops n s) := by
  unfold countStopDrops countIntake
  split
  · exact cap_of rfl rfl rfl rfl rfl
  · exact cap_of rfl rfl rfl rfl rfl

theorem cap_sealEntry (f b : Nat) (first : Option Nat) (t : Bool) (s : State) : Cap s (sealEntry f b first t s) := by
  unfold sealEntry
  split
  · exact (told_logFault _ _ _ s).cap
  · exact (((low_growEntry _ _ _ _ s).cap.trans (low_mapData _ _ _).cap).trans (low_setEntryState _ _ _).cap).trans
      (cap_countCatalog _ _)

theorem cap_indexOrFree (o : Option Nat) (s : State) : Cap s (indexOrFree o s).2 := by
  unfold indexOrFree
  split
  · exact Rel.refl s
  · exact cap_of rfl rfl rfl rfl rfl

/-! ## The aligner -/

theorem cap_tellWriter (n : Nat) (c : WriterChange) (s : State) : Cap s (tellWriter n c s) := cap_setWriter rfl

theorem outcome_forced (o : TrigOutcome) (n : Nat) (c : TriggerCounters) : (o.count n c).forced = c.forced := by
  cases o <;> rfl

theorem cap_countOutcome (o : TrigOutcome) (n : Nat) (s : State) : Cap s (countOutcome o n s) :=
  cap_countTrigger (outcome_forced o n _)

theorem cap_discardTrigger (o : TrigOutcome) (s : State) : Cap s (discardTrigger o s).2 := cap_countOutcome o 1 s

theorem cap_sendMark (n : Nat) (s : State) (m : Mark) : Cap s (sendMark n s m) := by
  have h := (low_requestMark n m s).cap
  unfold sendMark
  split
  · next e => rw [e] at h; exact h.trans (cap_countTrigger rfl)
  · next e => rw [e] at h; exact h.trans (cap_countTrigger rfl)
  · next e => rw [e] at h; exact h.trans (cap_countOutcome _ _ _)

theorem cap_deliverMarks (n first next : Nat) (s : State) : Cap s (deliverMarks n first next s) :=
  (cap_setAligner rfl).trans (Rel.foldl _ (fun s m => cap_sendMark n s m) _ _)

theorem cap_clearMarks (o : TrigOutcome) (s : State) : Cap s (clearMarks o s) :=
  (cap_setAligner rfl).trans (cap_countOutcome _ _ _)

theorem cap_makeMark (tr : Trigger) (s : State) : Cap s (makeMark tr s).2 := by
  unfold makeMark
  dsimp only
  split
  · exact cap_discardTrigger _ s
  · split
    · split
      · exact cap_sendMark _ s _
      · exact cap_discardTrigger _ s
    · dsimp only; exact cap_setAligner rfl

theorem cap_makePending (tr : Trigger) (s : State) : Cap s (makePending tr s).2 := by
  unfold makePending
  split
  · exact cap_discardTrigger _ s
  · dsimp only; exact cap_setAligner rfl

theorem cap_handTrigger (tr : Trigger) (s : State) : Cap s (handTrigger tr s).2 := by
  unfold handTrigger
  dsimp only
  exact Rel.trans (cap_setAligner rfl) (cap_setWriter rfl)

theorem cap_judgeRange (tr : Trigger) (l : Nat) (s : State) : Cap s (judgeRange tr l s).2 := by
  unfold judgeRange
  repeat' split
  all_goals first
    | exact cap_makeMark tr s
    | exact cap_discardTrigger _ s
    | exact cap_makePending tr s

theorem cap_judgeByState (tr : Trigger) (s : State) : Cap s (judgeByState tr s).2 := by
  unfold judgeByState
  dsimp only
  repeat' split
  all_goals first
    | exact cap_discardTrigger _ s
    | exact cap_makePending tr s
    | exact cap_judgeRange tr _ s
    | exact cap_handTrigger tr s

theorem cap_judgeSegmented (tr : Trigger) (s : State) : Cap s (judgeSegmented tr s).2 := by
  unfold judgeSegmented
  repeat' split
  all_goals first
    | exact cap_discardTrigger _ s
    | exact cap_judgeByState tr s
    | exact cap_makePending tr s

theorem cap_judgeContinuous (tr : Trigger) (s : State) : Cap s (judgeContinuous tr s).2 := by
  unfold judgeContinuous
  dsimp only
  repeat' split
  all_goals first
    | exact cap_discardTrigger _ s
    | exact cap_makeMark tr s

theorem cap_judge (tr : Trigger) (s : State) : Cap s (judge tr s).2 := by
  unfold judge
  split
  · exact cap_judgeSegmented tr s
  · exact cap_judgeContinuous tr s

theorem cap_judgeRaw (src : TrigSource) (f : Byte) (l : Nat) (s : State) : Cap s (judgeRaw src f l s).2 := by
  unfold judgeRaw
  repeat' split
  all_goals first
    | exact cap_discardTrigger _ s
    | exact cap_judge _ s

theorem cap_judgeMessage (m : TrigMessage) (s : State) : Cap s (judgeMessage m s).2 := by
  unfold judgeMessage
  split
  · exact cap_judge _ s
  · exact cap_judgeRaw _ _ _ s

theorem cap_rejudge (s : State) : Cap s (rejudge s) := by
  unfold rejudge
  split
  · exact cap_setAligner rfl
  · exact Rel.trans (cap_setAligner rfl) (cap_judgeSegmented _ _)

theorem cap_clearPending (s : State) : Cap s (clearPending s) := by
  unfold clearPending
  split
  · exact Rel.refl s
  · exact Rel.trans (cap_setAligner rfl) (cap_countOutcome _ _ _)

theorem cap_checkArmed (s : State) : Cap s (checkArmed s) := by
  unfold checkArmed
  repeat' split
  all_goals first
    | exact cap_setAligner rfl
    | exact Rel.refl s

theorem cap_enterArming (f : Option Nat) (s : State) : Cap s (enterArming f s) :=
  Rel.trans (cap_setAligner rfl) (cap_checkArmed _)

theorem cap_enterDisarmed (s : State) : Cap s (enterDisarmed s) := cap_setAligner rfl

theorem cap_checkHoldoff (s : State) : Cap s (checkHoldoff s) := by
  unfold checkHoldoff
  split
  · dsimp only
    refine Rel.ite ?_ (cap_setAligner rfl)
    split
    · exact Rel.trans (Rel.trans (cap_setAligner rfl) (cap_tellWriter _ _ _)) (cap_enterArming _ _)
    · exact Rel.trans (cap_enterDisarmed s) (cap_tellWriter _ _ _)
  · exact Rel.refl s

theorem cap_alignerOpened (n f l x : Nat) (s : State) : Cap s (alignerOpened n f l x s) :=
  Rel.trans (Rel.trans (cap_setAligner rfl) (cap_countTrigger rfl)) (cap_deliverMarks _ _ _ _)

theorem cap_alignerOpenedContinuous (n f : Nat) (s : State) : Cap s (alignerOpenedContinuous n f s) := cap_setAligner rfl

theorem cap_alignerTooOld (s : State) : Cap s (alignerTooOld s) :=
  Rel.trans (Rel.trans (cap_setAligner rfl) (cap_countOutcome _ _ _)) (cap_clearMarks _ _)

theorem cap_alignerSealed (l : Nat) (s : State) : Cap s (alignerSealed l s) := by
  unfold alignerSealed
  dsimp only
  split
  · exact Rel.trans (Rel.trans (cap_setAligner rfl) (cap_tellWriter _ _ _)) (cap_enterDisarmed _)
  · exact Rel.trans (Rel.trans (Rel.trans (cap_setAligner rfl) (cap_tellWriter _ _ _)) (cap_setAligner rfl))
      (cap_checkHoldoff _)

theorem cap_alignerChainStart (f : Nat) (s : State) : Cap s (alignerChainStart f s) := by
  unfold alignerChainStart
  split
  · exact cap_setAligner rfl
  · exact Rel.refl s

theorem cap_clearHandOver (o : TrigOutcome) (s : State) : Cap s (clearHandOver o s) := by
  unfold clearHandOver
  split
  · exact Rel.refl s
  · exact Rel.trans (Rel.trans (cap_setWriter rfl) (cap_setAligner rfl)) (cap_countOutcome _ _ _)

theorem cap_fallBack (n : Nat) (s : State) : Cap s (fallBack n s) := by
  unfold fallBack
  split
  · exact Rel.refl s
  · exact Rel.refl s
  · exact Rel.refl s
  · split
    · exact Rel.trans (cap_setAligner rfl) (cap_enterDisarmed _)
    · exact Rel.trans (cap_setAligner rfl) (cap_enterArming _ _)

theorem cap_alignerCut (f x : Nat) (s : State) : Cap s (alignerCut f x s) := by
  unfold alignerCut
  dsimp only
  have h : ∀ a : Aligner → Aligner, (a s.aligner).params = s.aligner.params → ∀ n,
      Cap s (countOutcome .lostToDrop n (setAligner a s)) :=
    fun a ha n => (cap_setAligner ha).trans (cap_countOutcome _ _ _)
  split
  · exact h _ rfl _
  · refine Rel.trans (Rel.trans ?_ (cap_fallBack x _)) (cap_setAligner rfl)
    refine Rel.ite (h _ rfl _) ?_
    exact Rel.trans (Rel.trans (h _ rfl _) (cap_clearHandOver _ _)) (cap_clearMarks _ _)

/-! ## The writer -/

theorem cap_enterStarved (c : StarvedCause) (w : WaitRequest) (s : State) : Cap s (enterStarved c w s) := by
  unfold enterStarved
  have h := cap_indexOrFree s.writer.newestWritten s
  dsimp only
  have k : ∀ pay, Cap s
      (notifyBoth .writerStarved pay
        (setWriter
          (fun k =>
            { k with
              state := .starved, resume := k.state, waiting := some w, cause := some c, episodeDrops := 0
              offered := false }) (indexOrFree s.writer.newestWritten s).2)) :=
    fun pay => (h.trans (cap_setWriter rfl)).trans (told_notifyBoth _ _ _).cap
  split
  · exact k _
  · exact (k _).trans (told_logFault _ _ _ _).cap

theorem cap_leaveStarved (s : State) : Cap s (leaveStarved s) := by
  unfold leaveStarved
  split
  · exact Rel.trans (cap_setWriter rfl) (told_notifyBoth _ _ _).cap
  · exact Rel.refl s

theorem cap_discardChain (s : State) : Cap s (discardChain s) := by
  unfold discardChain
  split
  · exact Rel.trans (low_releaseBlocks _ s).cap (cap_setWriter rfl)
  · exact Rel.refl s

theorem cap_trimOne (s : State) : Cap s (trimOne s) := by
  unfold trimOne
  split
  · exact Rel.refl s
  · exact Rel.trans (low_releaseBlock s _).cap (cap_setWriter rfl)

theorem cap_trimLoop : ∀ (fuel : Nat) (s : State), Cap s (trimLoop fuel s)
  | 0, s => Rel.refl s
  | fuel + 1, s => by
    unfold trimLoop
    split
    · exact (cap_trimOne s).trans (cap_trimLoop fuel _)
    · exact Rel.refl s

theorem cap_trimChain (s : State) : Cap s (trimChain s) := cap_trimLoop _ s

theorem cap_gotBlock (b : Nat) (s : State) : Cap s (gotBlock b s) := cap_setWriter rfl

theorem cap_requestBlock (r : Bool) (s : State) : Cap s (requestBlock r s).2 := by
  have h := (low_takeBlock s.writer.openRec s.writer.chainLast r s).cap
  unfold requestBlock
  split
  · next e => rw [e] at h; exact h.trans (cap_gotBlock _ _)
  · next e => rw [e] at h; exact h
  · next s1 e =>
    rw [e] at h
    dsimp only
    have h2 : Cap s (setWriter (fun w => { w with lastFill := w.params.framesPerBlock }) s1) := h.trans (cap_setWriter rfl)
    have k := h2.trans (low_takeBlock
      (setWriter (fun w => { w with lastFill := w.params.framesPerBlock }) s1).writer.openRec
      (setWriter (fun w => { w with lastFill := w.params.framesPerBlock }) s1).writer.chainLast r _).cap
    split
    · next e2 => rw [e2] at k; exact k.trans (cap_gotBlock _ _)
    · next e2 => rw [e2] at k; exact k

theorem cap_sealTruncating (s : State) : Cap s (sealTruncating s) := by
  unfold sealTruncating
  split
  · exact Rel.refl s
  · exact Rel.trans ((cap_sealEntry _ _ _ _ s).trans (low_storeBlock _ _).cap) (cap_setWriter rfl)

theorem cap_intakeIdle (s : State) : Cap s (intakeIdle s) := cap_of rfl rfl rfl rfl rfl

theorem cap_intakeEnd (s : State) : Cap s (intakeEnd s) := (cap_countStopDrops _ s).trans (cap_intakeIdle _)

theorem cap_enterStopped (f : DrainFlags) (s : State) : Cap s (enterStopped f s) := by
  refine cap_of ?_ rfl rfl rfl rfl
  obtain ⟨_, _, _, _, _, _, _, _, _, session, _, _, _, _, _, _, _⟩ := s
  cases session with
  | mk _ _ st _ _ _ _ _ _ => cases st <;> rfl

theorem cap_session {s : State} {k : Session} (h1 : k.config = s.session.config)
    (h2 : k.generation = s.session.generation) (h3 : k.inProgress = s.session.inProgress)
    (h4 : k.totals = s.session.totals) : Cap s { s with session := k } := by
  refine cap_of ?_ rfl rfl rfl rfl
  obtain ⟨_, _, _, _, _, _, _, _, _, session, _, _, _, _, _, _, _⟩ := s
  cases session with
  | mk _ _ st _ _ _ _ _ _ =>
    cases k with
    | mk _ _ st2 _ _ _ _ _ _ =>
      dsimp only at h1 h2 h3 h4
      subst h1 h2 h3 h4
      cases st <;> cases st2 <;> rfl

theorem cap_drainCheck (s : State) : Cap s (drainCheck s) := by
  unfold drainCheck
  split
  · exact cap_session rfl rfl rfl rfl
  · exact cap_enterStopped _ s

theorem cap_finishStop (s : State) : Cap s (finishStop s) := by
  unfold finishStop
  dsimp only
  refine Rel.trans ?_ (cap_drainCheck _)
  refine Rel.trans ?_ (cap_setWriter rfl)
  refine Rel.trans ?_ (cap_intakeEnd _)
  refine Rel.trans ?_ (cap_clearPending _)
  refine Rel.trans ?_ (cap_rejudge _)
  refine Rel.trans ?_ (cap_enterDisarmed _)
  refine Rel.trans ?_ (cap_setAligner rfl)
  refine Rel.trans ?_ (cap_clearMarks _ _)
  refine Rel.trans ?_ (cap_clearHandOver _ _)
  exact ((Eng.cap (eng_dropWriter s)).trans (cap_sealTruncating _)).trans (cap_discardChain _)

theorem cap_sealComplete (l : Nat) (s : State) : Cap s (sealComplete l s) := by
  unfold sealComplete
  have h : Cap s
      (alignerSealed l
        (setWriter (fun w => { w.noChain with openRec := none, recLast := none, state := .passing })
          (storeBlock s.writer.chainLast
            (sealEntry s.writer.written s.writer.chainBlocks s.writer.chainFirst false s)))) :=
    (((cap_sealEntry _ _ _ _ s).trans (low_storeBlock _ _).cap).trans (cap_setWriter rfl)).trans
      (cap_alignerSealed _ _)
  generalize alignerSealed l _ = x at h ⊢
  exact Rel.ite (Rel.trans h (cap_finishStop _)) h

theorem cap_adoptOpening (n : Nat) (o : Opening) (x : Nat) (s : State) : Cap s (adoptOpening n o x s) :=
  Rel.trans (((low_releaseBlocks _ s).cap.trans (low_adoptBlocks _ _ _).cap).trans (cap_setWriter rfl))
    (cap_alignerOpened _ _ _ _ _)

theorem cap_openSegmented (r : Bool) (tr : Trigger) (x : Nat) (s : State) : Cap s (openSegmented r tr x s) := by
  unfold openSegmented
  dsimp only
  have h := cap_askEntry .opened s.writer.params.archReq (.data ((s.opening tr x).fields tr s.writer.params)) r s
  split
  · next n s1 e =>
    rw [e] at h
    have k := (h.trans (cap_leaveStarved _)).trans (cap_adoptOpening n (s.opening tr x) x _)
    split
    · exact k.trans (cap_sealComplete _ _)
    · split
      · have q := k.trans (cap_requestBlock false _)
        split
        · next e2 => rw [e2] at q; exact q
        · next e2 => rw [e2] at q; exact q.trans (cap_enterStarved _ _ _)
      · exact k
  · next s1 e => rw [e] at h; exact Rel.ite h (h.trans (cap_enterStarved _ _ _))
  · next s1 e => rw [e] at h; exact h

theorem cap_refuseTooOld (s : State) : Cap s (refuseTooOld s) := by
  unfold refuseTooOld
  dsimp only
  have h : Cap s (alignerTooOld (setWriter (fun w => { w with handed := none }) s)) :=
    (cap_setWriter rfl).trans (cap_alignerTooOld _)
  exact Rel.ite (h.trans (cap_finishStop _)) h

theorem cap_applyChange (s : State) (c : WriterChange) : Cap s (applyChange s c) := by
  unfold applyChange
  split
  · exact (cap_discardChain s).trans (cap_setWriter rfl)
  · exact cap_setWriter rfl

theorem cap_applyChanges (x : Nat) (s : State) : Cap s (applyChanges x s) := by
  unfold applyChanges
  split
  · exact Rel.trans (cap_setWriter rfl) (Rel.foldl _ cap_applyChange _ _)
  · exact Rel.refl s

theorem cap_settleOnce (s : State) : Cap s (settleOnce s).1 := by
  unfold settleOnce
  split
  · exact cap_rejudge s
  · split
    · exact Rel.refl s
    · next x _ =>
      dsimp only
      have h := cap_applyChanges x s
      split
      · exact h
      · split
        · split
          · exact h.trans (cap_refuseTooOld _)
          · exact h.trans (cap_openSegmented _ _ _ _)
        · exact h

theorem cap_settleLoop : ∀ (fuel : Nat) (s : State), Cap s (settleLoop fuel s)
  | 0, s => Rel.refl s
  | fuel + 1, s => by
    have h := cap_settleOnce s
    unfold settleLoop
    split
    · next e => rw [e] at h; exact h.trans (cap_settleLoop fuel _)
    · next e => rw [e] at h; exact h

/-- Everything the aligner and the writer settle. -/
theorem cap_settle (s : State) : Cap s (settle s) := cap_settleLoop 8 s

/-- Everything that follows a step of the capture side. -/
theorem cap_captureEvent (s : State) : Cap s (captureEvent s) := (cap_settle s).trans (eng_engineEvent _).cap

/-! ## Bursts, cuts and spans -/

theorem cap_askBurst (x : Nat) (s : State) : Cap s (askBurst x s) := by
  unfold askBurst
  split
  · exact Rel.refl s
  · exact cap_of rfl rfl rfl rfl rfl

theorem cap_starveOrStop (c : StarvedCause) (w : WaitRequest) (s : State) : Cap s (starveOrStop c w s) := by
  unfold starveOrStop
  exact Rel.ite (cap_finishStop s) (cap_enterStarved c w s)

theorem cap_writeFrames (x : Nat) (s : State) : Cap s (writeFrames x s) := by
  unfold writeFrames
  dsimp only
  have h := cap_trimChain s
  split
  · have q := h.trans (cap_requestBlock false _)
    split
    · next e => rw [e] at q; exact q.trans (cap_askBurst _ _)
    · next e => rw [e] at q; exact q.trans (cap_starveOrStop _ _ _)
  · exact h.trans (cap_askBurst _ _)

theorem cap_openContinuous (r : Bool) (f : Nat) (g : Bool) (s : State) : Cap s (openContinuous r f g s).2 := by
  unfold openContinuous
  have h := cap_askEntry .opened s.writer.params.archReq (.data (continuousFields f g s.writer.params)) r s
  split
  · next n s1 e =>
    rw [e] at h
    dsimp only
    have k : Cap s
        (alignerOpenedContinuous n f
          (setWriter
            (fun w =>
              { w with openRec := some n, recFirst := f, recLast := none, written := 0, gapFollowUp := false })
            (leaveStarved s1))) :=
      ((h.trans (cap_leaveStarved _)).trans (cap_setWriter rfl)).trans (cap_alignerOpenedContinuous _ _ _)
    have q := k.trans (cap_requestBlock false _)
    split
    · next e2 => rw [e2] at q; exact q
    · next e2 => rw [e2] at q; exact q.trans (cap_starveOrStop _ _ _)
  · next s1 e => rw [e] at h; dsimp only; exact Rel.ite h (h.trans (cap_starveOrStop _ _ _))
  · next s1 e => rw [e] at h; exact h

theorem cap_sealSpan (s : State) : Cap s (sealSpan s) :=
  Rel.trans ((cap_sealEntry _ _ _ _ s).trans (low_storeBlock _ _).cap) (cap_setWriter rfl)

theorem cap_tellCut (c : Cut) (s : State) : Cap s (tellCut c s) := by
  unfold tellCut
  have h := ((cap_sealTruncating s).trans (cap_discardChain _)).trans (cap_alignerCut c.first c.after _)
  generalize alignerCut c.first c.after _ = x at h ⊢
  exact Rel.trans h (cap_setWriter rfl)

theorem cap_openAfterGap (x : Nat) (s : State) : Cap s (openAfterGap x s) := cap_openContinuous _ _ _ s

theorem cap_gapAccepted (c : Cut) (s : State) : Cap s (gapAccepted c s) := by
  unfold gapAccepted
  have h := cap_setItems (s.intake.items.drop 1) s
  generalize setItems _ s = x at h ⊢
  have k : Cap s
      (setWriter
        (fun w =>
          { w with
            nextFrame := some c.after, cutTold := false
            gapFollowUp := w.gapFollowUp || decide (w.params.mode = .continuous) }) x) := h.trans (cap_setWriter rfl)
  generalize setWriter _ x = y at k ⊢
  exact Rel.ite (k.trans (cap_openAfterGap _ _)) k

theorem cap_appendGap (r : Bool) (c : Cut) (s : State) : Cap s (appendGap r c s) := by
  unfold appendGap
  dsimp only
  have h := fun st => cap_askEntry st s.writer.params.archReq (.gap { first := c.first, count := c.count, cause := c.cause }) r s
  split
  · next e =>
    have k := h (if s.writer.params.archReq then .sealed else .retired)
    rw [e] at k
    exact (k.trans (cap_leaveStarved _)).trans (cap_gapAccepted _ _)
  · next e =>
    have k := h (if s.writer.params.archReq then .sealed else .retired)
    rw [e] at k
    exact Rel.ite k (k.trans (cap_enterStarved _ _ _))

theorem cap_processCut (c : Cut) (s : State) : Cap s (processCut c s) := by
  unfold processCut
  exact Rel.trans (Rel.ite (Rel.refl s) (cap_tellCut c s)) (cap_appendGap _ _ _)

theorem cap_finishAtCut (c : Cut) (s : State) : Cap s (finishAtCut c s) :=
  (((cap_sealTruncating s).trans (cap_discardChain _)).trans (cap_alignerCut _ _ _)).trans (cap_finishStop _)

theorem cap_reachCut (c : Cut) (s : State) : Cap s (reachCut c s) := by
  unfold reachCut
  exact Rel.ite (cap_finishAtCut c s)
    (Rel.ite (cap_finishStop s) (Rel.ite (cap_processCut c s) (cap_setWriter rfl)))

theorem cap_cutClosed (s : State) : Cap s (cutClosed s) := by
  unfold cutClosed
  split
  · split
    · exact Rel.ite (Rel.trans (cap_setWriter rfl) (cap_processCut _ _)) (Rel.refl s)
    · exact Rel.refl s
  · exact Rel.refl s

theorem cap_recordFrame (i : Nat) (s : State) : Cap s (recordFrame i s) := by
  unfold recordFrame
  split
  · have h := cap_openContinuous false i s.writer.gapFollowUp s
    split
    · next e => rw [e] at h; exact h.trans (cap_askBurst _ _)
    · next e => rw [e] at h; exact h
  · exact cap_writeFrames i s

theorem cap_repeatRequest (s : State) : Cap s (repeatRequest s) := by
  unfold repeatRequest
  split
  · exact Rel.refl s
  · have h := cap_requestBlock true s
    split
    · next e => rw [e] at h; exact h.trans (cap_leaveStarved _)
    · next e => rw [e] at h; exact h
  · exact cap_openContinuous _ _ _ s
  · split
    · exact cap_openSegmented _ _ _ s
    · exact Rel.refl s
  · exact cap_appendGap _ _ s

theorem cap_growthReport (b : WriterBurst) (s : State) : Cap s (growthReport b s) := by
  unfold growthReport
  dsimp only
  have h := (low_growBlock b.block s.writer.lastFill s.writer.params.framesPerBlock s).cap
  split
  · exact (h.trans (low_growEntry _ _ _ _ _).cap).trans (cap_deliverMarks _ _ _ _)
  · have h1 := Rel.ite (c := decide (s.writer.provOldest.map (fun o => o + b.count) = s.writer.nextFrame) = true)
      (h.trans (cap_alignerChainStart (s.writer.provOldest.getD 0) _)) h
    exact Rel.ite h1 (h1.trans (cap_trimChain _))

/-! ## When the writer takes an item -/

theorem strayGranted_of {m : MemService} {b : WriterBurst} (h : m.busy = some (.stray b)) : m.strayGranted = true := by
  unfold MemService.strayGranted; rw [h]

theorem not_strayGranted {m : MemService} (h : ∀ b, m.busy ≠ some (.stray b)) : m.strayGranted = false := by
  unfold MemService.strayGranted
  split
  · next b hb => exact absurd hb (h b)
  · rfl

/-- No change of the writer's state is due at a frame before every change it has been told. -/
theorem applyChanges_early {s : State} {i : Nat} (h : ∀ c ∈ s.writer.changes, i < c.1) : applyChanges i s = s := by
  have due : s.writer.changes.filter (fun c => decide (c.1 ≤ i)) = [] :=
    List.filter_eq_nil_iff.mpr (fun c hc => by have := h c hc; simp; omega)
  have kept : s.writer.changes.filter (fun c => decide (i < c.1)) = s.writer.changes :=
    List.filter_eq_self.mpr (fun c hc => by simpa using h c hc)
  unfold applyChanges
  split
  · simp [setWriter, due, kept]
  · rfl

theorem applyChanges_recording {s : State} {i : Nat} (h : s.writer.state = .recording) : applyChanges i s = s := by
  unfold applyChanges; rw [if_neg (by simp [h])]

/-- A writer that is RECORDING writes the frame at the oldest end. -/
theorem writesNext_recording {s : State} {i : Nat} {bytes : List Byte} {rest : List Item} (h : s.writer.state = .recording)
    (hi : s.intake.items = .frame i bytes :: rest) : s.writesNext = true := by
  unfold State.writesNext; rw [hi]; dsimp only; rw [applyChanges_recording (by exact h)]; simp [setWriter, h]

/-- A writer that is PASSING passes over a frame before every change it has been told. -/
theorem writesNext_passing {s : State} {i : Nat} {bytes : List Byte} {rest : List Item} (h : s.writer.state = .passing)
    (hi : s.intake.items = .frame i bytes :: rest) (hc : ∀ c ∈ s.writer.changes, i < c.1) : s.writesNext = false := by
  unfold State.writesNext; rw [hi]; dsimp only; rw [applyChanges_early (by exact hc)]; simp [setWriter, h]

/-- The completion of a burst that a STOP has cut off is an arbiter's grant, unless a writer at work waits with a frame to
write. -/
theorem strayBurstDone_arbitrate {s : State} (h : s.writer.state = .idle ∨ s.intake.items = []) :
    strayBurstDone s = arbitrate s := by
  unfold strayBurstDone
  rw [if_neg]
  rcases h with h | h
  · simp [State.writerReady, h]
  · simp [State.writesNext, h]

end Sys2Proof.Laws
end

