-- ==== Sys2Proof/Laws/Answers.lean ====
section
/-! SUPPORT. What an answer to a request leaves, and the relation that every command keeps but those that move a completion
head, reset a port, write capture memory or start the part. -/

namespace Sys2Proof.Laws

open Sys2Proof.Machine

/-! ## The relation -/

/-- Capture memory, the queue of commands and every entry of the completion queues are kept; so are the catalog's numbers
and the bound of the refresh debt. -/
structure Sound (s t : State) : Prop where
  cells : t.mem.cells = s.mem.cells
  waiting : t.pending = s.pending
  numbered : s.catalog.Numbered → t.catalog.Numbered
  debt : s.debtBounded → t.debtBounded
  queue : ∀ p, QueueKept (s.port p) (t.port p)

theorem sound_refl (s : State) : Sound s s := ⟨rfl, rfl, id, id, fun _ => queueKept_refl _⟩

theorem Sound.trans {s t u : State} (h : Sound s t) (k : Sound t u) : Sound s u :=
  ⟨k.cells.trans h.cells, k.waiting.trans h.waiting, k.numbered ∘ h.numbered, k.debt ∘ h.debt,
    fun p => queueKept_trans (h.queue p) (k.queue p)⟩

theorem Sound.ite {s t u : State} {c : Prop} [Decidable c] (h : Sound s t) (k : Sound s u) :
    Sound s (if c then t else u) := by split <;> assumption

theorem Sound.foldl {α : Type} (f : State → α → State) (hf : ∀ s a, Sound s (f s a)) :
    ∀ (l : List α) (s : State), Sound s (l.foldl f s)
  | [], s => sound_refl s
  | a :: l, s => (hf s a).trans (Sound.foldl f hf l (f s a))

/-- An update that touches no port unit, no catalog, no capture memory, no command and no debt. -/
theorem sound_of {s t : State} (hm : t.mem.cells = s.mem.cells) (hp : t.pending = s.pending)
    (hc : t.catalog = s.catalog) (hd : t.mem.debt = s.mem.debt) (h0 : t.port0 = s.port0) (h1 : t.port1 = s.port1) :
    Sound s t :=
  ⟨hm, hp, fun h => hc ▸ h, fun h => (show t.mem.debt ≤ 9 from hd ▸ h), fun p => by
    cases p
    · exact (congrArg (QueueKept s.port0) h0).mpr (queueKept_refl _)
    · exact (congrArg (QueueKept s.port1) h1).mpr (queueKept_refl _)⟩

theorem Cap.sound {s t : State} (h : Cap s t) : Sound s t :=
  ⟨by have e := congrArg (fun x : State => x.mem.cells) h.view; exact e,
   by have e := congrArg (fun x : State => x.pending) h.view; exact e,
   h.numbered, h.debt, fun p => (h.ports p).queue⟩

theorem Eng.sound {s t : State} (h : Eng s t) : Sound s t := Cap.sound (Eng.cap h)
theorem Low.sound {s t : State} (h : Low s t) : Sound s t := Cap.sound (Low.cap h)
theorem Told.sound {s t : State} (h : Told s t) : Sound s t := Cap.sound (Told.cap h)

theorem sound_setPort {p : Port} {u : PortUnit} {s : State} (h : QueueKept (s.port p) u) : Sound s (s.setPort p u) := by
  refine ⟨by cases p <;> rfl, by cases p <;> rfl, by cases p <;> exact id, by cases p <;> exact id, fun q => ?_⟩
  rw [setPort_port_ite]
  split
  · next e => exact e ▸ h
  · exact queueKept_refl _

theorem queueKept_of {u v : PortUnit} (hs : v.cplSlots = u.cplSlots) (hh : v.cplHead = u.cplHead)
    (ht : v.cplTail = u.cplTail) : QueueKept u v :=
  ⟨hh, by simp [PortUnit.entries, hh, ht], fun k _ => by simp [PortUnit.queued, hh, hs]⟩

theorem sound_modifyPort {p : Port} {f : PortUnit → PortUnit} {s : State} (hs : (f (s.port p)).cplSlots = (s.port p).cplSlots)
    (hh : (f (s.port p)).cplHead = (s.port p).cplHead) (ht : (f (s.port p)).cplTail = (s.port p).cplTail) :
    Sound s (modifyPort p f s) := sound_setPort (queueKept_of hs hh ht)

theorem sound_setBank (p : Port) (b : HoldBank) (s : State) : Sound s (s.setBank p b) := by
  cases p <;> exact sound_of rfl rfl rfl rfl rfl rfl

theorem sound_modifyBank (p : Port) (f : HoldBank → HoldBank) (s : State) : Sound s (modifyBank p f s) := sound_setBank p _ s

theorem sound_countPort (p : Port) (f : PortCounters → PortCounters) (s : State) : Sound s (countPort p f s) := by
  cases p <;> exact sound_of rfl rfl rfl rfl rfl rfl

theorem sound_countHolds (f : HoldCounters → HoldCounters) (s : State) : Sound s (countHolds f s) :=
  sound_of rfl rfl rfl rfl rfl rfl
theorem sound_countMemory (f : MemoryCounters → MemoryCounters) (s : State) : Sound s (countMemory f s) :=
  sound_of rfl rfl rfl rfl rfl rfl
theorem sound_countArchive (f : ArchiveCounters → ArchiveCounters) (s : State) : Sound s (countArchive f s) :=
  sound_of rfl rfl rfl rfl rfl rfl
theorem sound_countIntake (f : IntakeCounters → IntakeCounters) (s : State) : Sound s (countIntake f s) := by
  unfold countIntake; split <;> exact sound_of rfl rfl rfl rfl rfl rfl
theorem sound_countTrigger (f : TriggerCounters → TriggerCounters) (s : State) : Sound s (countTrigger f s) := by
  unfold countTrigger; split <;> exact sound_of rfl rfl rfl rfl rfl rfl
theorem sound_addTotals (f : Totals → Totals) (s : State) : Sound s (addTotals f s) := sound_of rfl rfl rfl rfl rfl rfl
theorem sound_setEngine (f : Engine → Engine) (s : State) : Sound s (setEngine f s) := sound_of rfl rfl rfl rfl rfl rfl
theorem sound_setWriter (f : Writer → Writer) (s : State) : Sound s (setWriter f s) := sound_of rfl rfl rfl rfl rfl rfl
theorem sound_setAligner (f : Aligner → Aligner) (s : State) : Sound s (setAligner f s) := sound_of rfl rfl rfl rfl rfl rfl
theorem sound_setIntake (f : Intake → Intake) (s : State) : Sound s (setIntake f s) := sound_of rfl rfl rfl rfl rfl rfl
theorem sound_setSession (f : Session → Session) (s : State) : Sound s (setSession f s) := sound_of rfl rfl rfl rfl rfl rfl
theorem sound_setItems (is : List Item) (s : State) : Sound s (setItems is s) := sound_of rfl rfl rfl rfl rfl rfl

/-! ## Answers -/

theorem sound_writeCompletion (p : Port) (c : Completion) (s : State) : Sound s (writeCompletion p c s) := by
  unfold writeCompletion
  split
  · next h => exact Told.sound (told_enqueue h _)
  · exact sound_setPort (queueKept_of rfl rfl rfl)

theorem sound_answerBy (c : Completion) (r : Passed) (s : State) : Sound s (answerBy c r s) := by
  unfold answerBy
  split
  · refine Sound.trans ?_ (sound_writeCompletion _ _ _)
    exact sound_setPort (queueKept_of rfl rfl rfl)
  · exact sound_refl s

theorem sound_answer (r : Passed) (st : Status) (d : Nat) (pay : List Field) (s : State) : Sound s (answer r st d pay s) :=
  sound_answerBy _ r s

/-- An answer changes the port unit of its request only. -/
theorem answerBy_eq (c : Completion) (r : Passed) (s : State) :
    answerBy c r s = s.setPort r.port ((answerBy c r s).port r.port) := by
  unfold answerBy writeCompletion enqueue interrupt
  dsimp only
  split_ifs <;> simp

theorem answer_eq (r : Passed) (st : Status) (d : Nat) (pay : List Field) (s : State) :
    answer r st d pay s = s.setPort r.port ((answer r st d pay s).port r.port) := answerBy_eq _ r s

theorem slot_congr (c : Completion) {s t : State} (hg : t.session.generation = s.session.generation)
    (he : t.catalog.epoch = s.catalog.epoch) : completionSlot c t = completionSlot c s := by
  unfold completionSlot entrySlot; rw [hg, he]

theorem entries_inHand (u : PortUnit) (h : Option InHand) : ({ u with inHand := h } : PortUnit).free = u.free := rfl

/-- What an answer to a live request leaves at its port. -/
theorem replied_answerBy {r : Passed} (hl : r.live = true) (c : Completion) {s u : State}
    (hp : ∀ q, u.port q = s.port q) : RepliedBy s (answerBy c r u) r c := by
  have hs : ∀ k, completionSlot k (answerBy c r u) = completionSlot k u := fun k =>
    slot_congr k (by rw [answerBy_eq]; simp) (by rw [answerBy_eq]; simp)
  have ho : (answerBy c r u).port r.port.other = s.port r.port.other := by
    rw [answerBy_eq, setPort_port_ite, if_neg (by cases r.port <;> simp [Port.other]), hp]
  have hu := hp r.port
  by_cases hf : 0 < (s.port r.port).free
  · have e : answerBy c r u = enqueue r.port (completionSlot c u)
        (u.setPort r.port { u.port r.port with inHand := none }) := by
      unfold answerBy writeCompletion
      rw [if_pos hl, if_pos (by rw [setPort_port, entries_inHand, hu]; exact hf)]
      congr 1
      exact slot_congr _ (by simp) (by simp)
    refine ⟨?_, fun _ => ?_, fun h => absurd h (by omega), ?_, ho⟩ <;> (try rw [hs]) <;>
      (rw [e]; unfold enqueue interrupt; simp only [setPort_port, hu]; split_ifs <;> simp)
  · have h0 : (s.port r.port).free = 0 := by omega
    have e : answerBy c r u = u.setPort r.port { u.port r.port with inHand := none, held := some c } := by
      unfold answerBy writeCompletion
      rw [if_pos hl, if_neg (by rw [setPort_port, entries_inHand, hu, h0]; omega)]
      simp
    refine ⟨?_, fun h => absurd h hf, fun _ => ?_, ?_, ho⟩ <;> (rw [e]; simp [hu])

theorem replied_answer {r : Passed} (hl : r.live = true) (st : Status) (d : Nat) (pay : List Field) {s u : State}
    (hp : ∀ q, u.port q = s.port q) : Replied s (answer r st d pay u) r st d pay := replied_answerBy hl _ hp

/-- A reply is an answer. -/
theorem replied_answered {s t : State} {r : Passed} {st : Status} {d : Nat} {pay : List Field}
    (h : Replied s t r st d pay) : Answered s t r st d pay := by
  refine ⟨h.noneInHand, ?_⟩
  by_cases hf : 0 < (s.port r.port).free
  · left
    obtain ⟨h1, h2, _⟩ := h.written hf
    have h4 : (t.port r.port).cplHead = (s.port r.port).cplHead := by rw [h.others]
    have hn : (64 - (s.port r.port).cplHead.val + (s.port r.port).cplTail.val) % 64 < 63 := by
      unfold PortUnit.free at hf; rw [entries_eq] at hf; omega
    have ht := (s.port r.port).cplTail.isLt
    have hh := (s.port r.port).cplHead.isLt
    refine ⟨(s.port r.port).entries, le_rfl, ?_, ?_⟩
    · rw [entries_eq, entries_eq, h2, h4, Fin.val_add]
      show _ < (64 - (s.port r.port).cplHead.val + ((s.port r.port).cplTail.val + 1) % 64) % 64
      omega
    · have hv := slotOf_val (s.port r.port) (s.port r.port).entries
      rw [entries_eq] at hv
      have he : (s.port r.port).cplTail.val =
          ((s.port r.port).cplHead + Fin.ofNat 64 ((64 - (s.port r.port).cplHead.val + (s.port r.port).cplTail.val) % 64)).val := by
        omega
      rw [← entries_eq] at he
      unfold PortUnit.queued
      rw [h1, h4, Vector.get_eq_getElem, Vector.getElem_set, if_pos he]
  · exact Or.inr (h.heldBack (by omega)).1

/-- An answer stays through everything that keeps the port units' entries. -/
theorem answered_rel {v : State → State} {s t u : State} {r : Passed} {st : Status} {d : Nat} {pay : List Field}
    (h : Answered s t r st d pay) (k : Rel v t u) (hg : u.session.generation = t.session.generation)
    (he : u.catalog.epoch = t.catalog.epoch) : Answered s u r st d pay := by
  have kp := k.ports r.port
  have hi : (u.port r.port).inHand = (t.port r.port).inHand := by
    have e := congrArg (fun x : PortUnit => x.inHand) kp.rest; exact e
  have hh : (u.port r.port).held = (t.port r.port).held := by
    have e := congrArg (fun x : PortUnit => x.held) kp.rest; exact e
  refine ⟨hi.trans h.1, ?_⟩
  rw [slot_congr _ hg he, hh]
  exact h.2.imp_left (fun hq => posted_mono hq kp.queue)

/-- An answer given after steps that keep the port's entries is an answer from the start. -/
theorem answered_after {s t u : State} {r : Passed} {st : Status} {d : Nat} {pay : List Field}
    (k : ∀ p, QueueKept (s.port p) (t.port p)) (h : Answered t u r st d pay) : Answered s u r st d pay :=
  ⟨h.1, h.2.imp_left (fun hq => posted_after (k r.port) hq)⟩

theorem cap_generation {s t : State} (h : Cap s t) :
    t.session.generation = s.session.generation ∧ t.catalog.epoch = s.catalog.epoch :=
  ⟨by have e := congrArg (fun x : State => x.session.generation) h.view; exact e,
   by have e := congrArg (fun x : State => x.catalog.epoch) h.view; exact e⟩

/-- An answer followed by what the capture side, the engine and the arbiter do. -/
theorem answered_cap {s t u : State} {r : Passed} {st : Status} {d : Nat} {pay : List Field}
    (h : Answered s t r st d pay) (k : Cap t u) : Answered s u r st d pay :=
  answered_rel h k (cap_generation k).1 (cap_generation k).2

/-! ## Passed requests -/

theorem takePassed_of {s : State} {p : Port} {code : Nat} {r : Passed} (h : s.passed.find? (Passed.is p code) = some r) :
    takePassed p code s = some (r, s.without p code) := by
  unfold takePassed; rw [h]; rfl

theorem takePassed_some {s t : State} {p : Port} {code : Nat} {r : Passed} (h : takePassed p code s = some (r, t)) :
    s.passed.find? (Passed.is p code) = some r ∧ t = s.without p code := by
  unfold takePassed at h
  split at h
  · next e => cases h; exact ⟨e, rfl⟩
  · cases h

theorem sound_without (s : State) (p : Port) (code : Nat) : Sound s (s.without p code) := sound_of rfl rfl rfl rfl rfl rfl

theorem sound_takePassed {s t : State} {p : Port} {code : Nat} {r : Passed} (h : takePassed p code s = some (r, t)) :
    Sound s t := (takePassed_some h).2 ▸ sound_without s p code

theorem takeSession_some {s t : State} {p : Port} {code : Nat} {r : Passed} (h : takeSession p code s = some (r, t)) :
    takePassed p code s = some (r, t) := by
  unfold takeSession at h
  split at h
  · cases h
  · exact h

theorem Waits.port {s : State} {p : Port} {code : Nat} {r : Passed} (h : Waits s p code r) :
    r.port = p ∧ r.request.code = code := by
  have := List.find?_some h.oldest
  simpa [Passed.is] using this

@[simp] theorem without_port (s : State) (p q : Port) (code : Nat) : (s.without p code).port q = s.port q := by
  cases q <;> rfl

/-! ## What an answer leaves, field by field -/

@[simp] theorem answer_catalog (r : Passed) (st : Status) (d : Nat) (pay : List Field) (s : State) :
    (answer r st d pay s).catalog = s.catalog := by rw [answer_eq]; simp
@[simp] theorem answer_blocks (r : Passed) (st : Status) (d : Nat) (pay : List Field) (s : State) :
    (answer r st d pay s).blocks = s.blocks := by rw [answer_eq]; simp
@[simp] theorem answer_engine (r : Passed) (st : Status) (d : Nat) (pay : List Field) (s : State) :
    (answer r st d pay s).engine = s.engine := by rw [answer_eq]; simp
@[simp] theorem answer_writer (r : Passed) (st : Status) (d : Nat) (pay : List Field) (s : State) :
    (answer r st d pay s).writer = s.writer := by rw [answer_eq]; simp
@[simp] theorem answer_aligner (r : Passed) (st : Status) (d : Nat) (pay : List Field) (s : State) :
    (answer r st d pay s).aligner = s.aligner := by rw [answer_eq]; simp
@[simp] theorem answer_intake (r : Passed) (st : Status) (d : Nat) (pay : List Field) (s : State) :
    (answer r st d pay s).intake = s.intake := by rw [answer_eq]; simp
@[simp] theorem answer_mem (r : Passed) (st : Status) (d : Nat) (pay : List Field) (s : State) :
    (answer r st d pay s).mem = s.mem := by rw [answer_eq]; simp
@[simp] theorem answer_session (r : Passed) (st : Status) (d : Nat) (pay : List Field) (s : State) :
    (answer r st d pay s).session = s.session := by rw [answer_eq]; simp
@[simp] theorem answer_counters (r : Passed) (st : Status) (d : Nat) (pay : List Field) (s : State) :
    (answer r st d pay s).counters = s.counters := by rw [answer_eq]; simp
@[simp] theorem answer_faults (r : Passed) (st : Status) (d : Nat) (pay : List Field) (s : State) :
    (answer r st d pay s).faults = s.faults := by rw [answer_eq]; simp
@[simp] theorem answer_passed (r : Passed) (st : Status) (d : Nat) (pay : List Field) (s : State) :
    (answer r st d pay s).passed = s.passed := by rw [answer_eq]; simp
@[simp] theorem answer_freeCount (r : Passed) (st : Status) (d : Nat) (pay : List Field) (s : State) :
    (answer r st d pay s).freeCount = s.freeCount := by rw [answer_eq]; simp
@[simp] theorem answer_pending (r : Passed) (st : Status) (d : Nat) (pay : List Field) (s : State) :
    (answer r st d pay s).pending = s.pending := by rw [answer_eq]; simp
@[simp] theorem answer_bank0 (r : Passed) (st : Status) (d : Nat) (pay : List Field) (s : State) :
    (answer r st d pay s).bank0 = s.bank0 := by rw [answer_eq]; simp
@[simp] theorem answer_bank1 (r : Passed) (st : Status) (d : Nat) (pay : List Field) (s : State) :
    (answer r st d pay s).bank1 = s.bank1 := by rw [answer_eq]; simp
@[simp] theorem answer_bank (r : Passed) (st : Status) (d : Nat) (pay : List Field) (s : State) (q : Port) :
    (answer r st d pay s).bank q = s.bank q := by rw [answer_eq]; simp
@[simp] theorem answerBy_catalog (c : Completion) (r : Passed) (s : State) : (answerBy c r s).catalog = s.catalog := by
  rw [answerBy_eq]; simp
@[simp] theorem answerBy_blocks (c : Completion) (r : Passed) (s : State) : (answerBy c r s).blocks = s.blocks := by
  rw [answerBy_eq]; simp
@[simp] theorem answerBy_engine (c : Completion) (r : Passed) (s : State) : (answerBy c r s).engine = s.engine := by
  rw [answerBy_eq]; simp
@[simp] theorem answerBy_writer (c : Completion) (r : Passed) (s : State) : (answerBy c r s).writer = s.writer := by
  rw [answerBy_eq]; simp
@[simp] theorem answerBy_aligner (c : Completion) (r : Passed) (s : State) : (answerBy c r s).aligner = s.aligner := by
  rw [answerBy_eq]; simp
@[simp] theorem answerBy_intake (c : Completion) (r : Passed) (s : State) : (answerBy c r s).intake = s.intake := by
  rw [answerBy_eq]; simp
@[simp] theorem answerBy_mem (c : Completion) (r : Passed) (s : State) : (answerBy c r s).mem = s.mem := by
  rw [answerBy_eq]; simp
@[simp] theorem answerBy_counters (c : Completion) (r : Passed) (s : State) : (answerBy c r s).counters = s.counters := by
  rw [answerBy_eq]; simp
@[simp] theorem answerBy_faults (c : Completion) (r : Passed) (s : State) : (answerBy c r s).faults = s.faults := by
  rw [answerBy_eq]; simp
@[simp] theorem answerBy_session (c : Completion) (r : Passed) (s : State) : (answerBy c r s).session = s.session := by
  rw [answerBy_eq]; simp
@[simp] theorem answerBy_passed (c : Completion) (r : Passed) (s : State) : (answerBy c r s).passed = s.passed := by
  rw [answerBy_eq]; simp
@[simp] theorem answerBy_freeCount (c : Completion) (r : Passed) (s : State) : (answerBy c r s).freeCount = s.freeCount := by
  rw [answerBy_eq]; simp
@[simp] theorem answerBy_pending (c : Completion) (r : Passed) (s : State) : (answerBy c r s).pending = s.pending := by
  rw [answerBy_eq]; simp
@[simp] theorem answerBy_bank0 (c : Completion) (r : Passed) (s : State) : (answerBy c r s).bank0 = s.bank0 := by
  rw [answerBy_eq]; simp
@[simp] theorem answerBy_bank1 (c : Completion) (r : Passed) (s : State) : (answerBy c r s).bank1 = s.bank1 := by
  rw [answerBy_eq]; simp

end Sys2Proof.Laws
end

