-- ==== Sys2Proof/Laws/Commands.lean ====
section
/-! SUPPORT. What each command keeps: capture memory, the commands that wait, the entries of the completion queues, the
catalog's numbers and the bound of the refresh debt. -/

namespace Sys2Proof.Laws

open Sys2Proof.Machine

theorem next_of {s u t : State} (h : (Host.Outcome.next u : Host.Outcome State Fault Refusal) = .next t) (k : Sound s u) :
    Sound s t := by cases h; exact k

/-! ## Memory service -/

theorem sound_mem {s : State} {k : MemService} (hc : k.cells = s.mem.cells) (hd : s.debtBounded → k.debt ≤ 9) :
    Sound s { s with mem := k } :=
  ⟨hc, rfl, id, hd, fun p => by cases p <;> exact queueKept_refl _⟩

theorem sound_refreshComesDue (s : State) : Sound s (refreshComesDue s) := by
  unfold refreshComesDue
  have h : Sound s { s with mem := { s.mem with debt := min (s.mem.debt + 1) Config.debtMax, refreshPhase := 0 } } :=
    sound_mem rfl (fun _ => Nat.min_le_right _ _)
  dsimp only
  split
  · split
    · exact (h.trans (sound_countMemory _ _)).trans (Told.sound (told_logFault _ _ _ _))
    · exact h
  · exact sound_refl s

theorem sound_arbitrate (s : State) : Sound s (arbitrate s) := Eng.sound (eng_arbitrate s)

theorem sound_releaseGrant (s : State) : Sound s (releaseGrant s) := sound_mem rfl id

theorem sound_strikeAll (ks : List Strike) (s : State) : Sound s (strikeAll ks s) := sound_mem rfl id

theorem sound_badGranule (s : State) (g : Nat) : Sound s (badGranule s g) :=
  ((Low.sound (low_suspectMark _ s)).trans (sound_countMemory _ _)).trans (Told.sound (told_logFault _ _ _ _))

theorem sound_readEffects (r : ReadResult) (s : State) : Sound s (readEffects r s) :=
  (sound_countMemory _ s).trans (Sound.foldl _ sound_badGranule _ _)

theorem sound_engineEvent (s : State) : Sound s (engineEvent s) := Eng.sound (eng_engineEvent s)

theorem sound_captureEvent (s : State) : Sound s (captureEvent s) := Cap.sound (cap_captureEvent s)

theorem sound_calibrationFailure {s t : State} (h : execCalibrationFailure s = .next t) : Sound s t := by
  refine next_of h (Sound.ite (Sound.trans ?_ (Told.sound (told_logFault _ _ _ _))) (sound_refl s))
  exact sound_mem rfl id

theorem sound_refreshDue {s t : State} (h : execRefreshDue s = .next t) : Sound s t :=
  next_of h ((sound_refreshComesDue s).trans (sound_arbitrate _))

theorem sound_refreshDone {s t : State} (h : execRefreshDone s = .next t) : Sound s t :=
  next_of h (Sound.ite ((sound_releaseGrant s).trans (sound_arbitrate _)) (sound_refl s))

/-! ## Archive engine -/

theorem sound_onBound {f : Port → State → State} (hf : ∀ p s, Sound s (f p s)) (s : State) : Sound s (onBound f s) := by
  unfold onBound
  split
  · exact sound_refl s
  · exact hf _ s

theorem sound_noteDamage (s : State) (g : Nat) : Sound s (noteDamage s g) := by
  unfold noteDamage
  have h := Low.sound (low_damageEntry s.engine.sendPos s.catalog.epoch s)
  dsimp only
  exact Sound.ite h ((h.trans (sound_setEngine _ _)).trans (sound_countArchive _ _))

theorem sound_takeArchiveData (r : ReadResult) (s : State) : Sound s (takeArchiveData r s) := by
  unfold takeArchiveData
  split
  · exact sound_refl s
  · exact Sound.trans (sound_setEngine _ s) (Sound.foldl _ sound_noteDamage _ _)

theorem sound_execEntryStart {s t : State} (h : execEntryStart s = .next t) : Sound s t := by
  refine next_of h (Sound.ite ?_ (sound_refl s))
  dsimp only
  split
  · exact sound_refl s
  · exact Sound.ite (((Eng.sound (eng_skipPositions s)).trans (Eng.sound (eng_startEntry _ _))).trans (sound_engineEvent _))
      (sound_refl s)

theorem sound_expireFlush (s : State) : Sound s (expireFlush s) := by
  unfold expireFlush
  exact Sound.ite ((sound_setEngine _ s).trans (sound_engineEvent _)) (sound_refl s)

theorem sound_execFlushTimerExpiry {s t : State} (h : execFlushTimerExpiry s = .next t) : Sound s t :=
  next_of h (sound_expireFlush s)

theorem sound_engineUnbound (s : State) : Sound s (engineUnbound s) := by
  unfold engineUnbound
  exact Sound.ite (Cap.sound (cap_enterStopped _ s)) (sound_refl s)

theorem sound_unbind (s : State) : Sound s (unbind s) := (sound_setEngine _ s).trans (sound_engineUnbound _)

theorem sound_logFailedWrite (s : State) : Sound s (logFailedWrite s) := by
  unfold logFailedWrite
  split
  · exact sound_refl s
  · exact ((sound_setEngine _ s).trans (Told.sound (told_logFault _ _ _ _))).trans (sound_countArchive _ _)

theorem sound_rewind (c : Bool) (s : State) : Sound s (rewind c s) :=
  (sound_logFailedWrite s).trans (Eng.sound (eng_rewindEntries c _))

theorem sound_sendDrainDone (s : State) : Sound s (sendDrainDone s) := Eng.sound (eng_sendDrainDone s)

theorem sound_finishUnbind (r : Passed) (s : State) : Sound s (finishUnbind r s) :=
  (((sound_rewind true s).trans (sound_unbind _)).trans (sound_sendDrainDone _)).trans (sound_answer _ _ _ _ _)

theorem sound_bindArchive (r : Passed) (s : State) : Sound s (bindArchive r s) := by
  unfold bindArchive
  split
  · exact Sound.trans (Sound.trans (sound_setEngine _ s) (sound_setEngine _ _)) (sound_answer _ _ _ _ _)
  · exact Sound.ite (sound_answer _ _ _ _ _) (sound_answer _ _ _ _ _)

theorem sound_unbindArchive (r : Passed) (s : State) : Sound s (unbindArchive r s) := by
  unfold unbindArchive
  refine Sound.ite ?_ (sound_answer _ _ _ _ _)
  split
  · exact sound_setEngine _ s
  · exact Sound.ite (sound_finishUnbind r s) (sound_setEngine _ s)

theorem sound_supplyBuffer (r : Passed) (a : Addr64) (n : Nat) (s : State) : Sound s (supplyBuffer r a n s) := by
  unfold supplyBuffer
  split
  · exact Sound.trans (Sound.trans (sound_setEngine _ s) (sound_answer _ _ _ _ _)) (sound_engineEvent _)
  · exact sound_answer _ _ _ _ _

theorem sound_afterErrorFilled (s : State) : Sound s (afterErrorFilled s) :=
  Sound.trans (sound_setEngine _ s) (Eng.sound (eng_bufferLeft _ _))

theorem sound_writeErrorFilled {s : State} (n : ErrorNotice) (h : s.boundFree = true) : Sound s (writeErrorFilled n s) := by
  unfold writeErrorFilled onBound
  split
  · exact sound_refl s
  · next p hp => exact Told.sound (told_enqueue (by simpa [State.boundFree, hp] using h) _)

theorem sound_faultEngine (w : OutWrite) (s : State) : Sound s (faultEngine w s) := sound_of rfl rfl rfl rfl rfl rfl

theorem sound_reportFailure (w : FailedWrite) (s : State) : Sound s (reportFailure w s) := by
  unfold reportFailure
  have h := sound_rewind true s
  dsimp only
  generalize rewind true _ = x at h ⊢
  split
  · next hb => exact (h.trans (sound_writeErrorFilled _ hb)).trans (sound_afterErrorFilled _)
  · exact h.trans (sound_setEngine _ _)

theorem sound_endFaultWait (s : State) : Sound s (endFaultWait s) := by
  unfold endFaultWait
  split
  · exact (sound_reportFailure _ s).trans (sound_engineEvent _)
  · exact sound_refl s

theorem sound_ackWrite (w : OutWrite) (s : State) : Sound s (ackWrite w s) :=
  Sound.trans (Sound.trans (sound_countArchive _ s) (sound_setEngine _ _)) (sound_engineEvent _)

/-! ## Intake and triggers -/

theorem sound_loseFrames (f n : Nat) (c : CutCause) (s : State) : Sound s (loseFrames f n c s) := by
  unfold loseFrames
  split
  · exact sound_setIntake _ s
  · exact (sound_setIntake _ s).trans (sound_countIntake _ _)

theorem sound_reportDrops (n : Nat) (s : State) : Sound s (reportDrops n s) := by
  unfold reportDrops
  exact Sound.trans (Sound.ite (sound_setWriter _ s) (sound_refl s)) (sound_addTotals _ _)

theorem sound_judgeFrame (s : State) (f : Nat × List Byte) : Sound s (judgeFrame s f) := by
  unfold judgeFrame
  refine Sound.ite (sound_setIntake _ s) ?_
  exact ((sound_loseFrames _ _ _ s).trans (sound_countIntake _ _)).trans (sound_reportDrops _ _)

theorem sound_alignerMissing (f x : Nat) (s : State) : Sound s (alignerMissing f x s) := by
  unfold alignerMissing
  exact Sound.ite (sound_setAligner _ s) (sound_refl s)

theorem sound_declareMissing (f x : Nat) (s : State) : Sound s (declareMissing f x s) :=
  ((((sound_loseFrames _ _ _ s).trans (sound_countIntake _ _)).trans (sound_addTotals _ _)).trans (sound_reportDrops _ _)).trans
    (sound_alignerMissing _ _ _)

theorem sound_fixFirstFrame (f : Nat) (s : State) : Sound s (fixFirstFrame f s) := by
  unfold fixFirstFrame
  split
  · exact sound_refl s
  · exact Sound.trans (Sound.trans (sound_setIntake _ s) (sound_setWriter _ _)) (sound_setAligner _ _)

theorem sound_alignerGroup (n : Nat) (s : State) : Sound s (alignerGroup n s) :=
  Sound.trans (Sound.trans (sound_setAligner _ s) (Cap.sound (cap_checkArmed _))) (Cap.sound (cap_checkHoldoff _))

theorem sound_takeFrames (f k : Nat) (fr : Vector (Vector Sample 8) 32) (s : State) : Sound s (takeFrames f k fr s) := by
  unfold takeFrames
  have h : Sound s
      ((groupFrames s.intake.setup f k fr).foldl judgeFrame
        (addTotals (fun t => { t with received := sat t.received (32 - k) })
          (countIntake (fun c => { c with groupsTaken := sat c.groupsTaken 1 })
            (fixFirstFrame (Config.frameIndex (f + k)) s)))) :=
    (((sound_fixFirstFrame _ s).trans (sound_countIntake _ _)).trans (sound_addTotals _ _)).trans
      (Sound.foldl _ sound_judgeFrame _ _)
  dsimp only
  generalize List.foldl judgeFrame _ _ = x at h ⊢
  refine Sound.trans ?_ (sound_alignerGroup _ _)
  exact h.trans (sound_of rfl rfl rfl rfl rfl rfl)

theorem sound_takeGroup (f : Nat) (fr : Vector (Vector Sample 8) 32) (s : State) : Sound s (takeGroup f fr s) := by
  unfold takeGroup
  split
  · exact sound_setIntake _ s
  · exact sound_takeFrames _ _ _ s
  · split
    · exact sound_takeFrames _ _ _ s
    · split
      · exact (sound_countIntake _ s).trans (Told.sound (told_logFault _ _ _ _))
      · split
        · exact sound_takeFrames _ _ _ s
        · exact (sound_declareMissing _ _ s).trans (sound_takeFrames _ _ _ _)

theorem sound_execFrameGroup {f : BitVec 64} {fr : Vector (Vector Sample 8) 32} {s t : State}
    (h : execFrameGroup f fr s = .next t) : Sound s t := by
  refine next_of h (Sound.ite ?_ (sound_refl s))
  exact (((sound_takeGroup _ _ s).trans (Cap.sound (cap_settle _))).trans (Cap.sound (cap_cutClosed _))).trans
    (sound_captureEvent _)

theorem sound_forgetFirstFrame (s : State) : Sound s (forgetFirstFrame s) := by
  unfold forgetFirstFrame
  split
  · exact Sound.trans (Sound.trans (sound_setIntake _ s) (sound_setWriter _ _)) (sound_setAligner _ _)
  · exact sound_refl s

theorem sound_execLinkDown {s t : State} (h : execLinkDown s = .next t) : Sound s t := by
  refine next_of h (Sound.ite ?_ (sound_refl s))
  exact (((sound_forgetFirstFrame s).trans (sound_setIntake _ _)).trans (sound_countIntake _ _)).trans
    (Told.sound (told_logFault _ _ _ _))

theorem sound_execLinkUp {s t : State} (h : execLinkUp s = .next t) : Sound s t := by
  refine next_of h (Sound.ite (sound_refl s) ?_)
  dsimp only
  exact Sound.ite (((sound_setIntake _ s).trans (sound_countIntake _ _)).trans (Told.sound (told_logFault _ _ _ _)))
    (sound_setIntake _ s)

theorem sound_execTriggerMessage {m : TrigMessage} {s t : State} (h : execTriggerMessage m s = .next t) : Sound s t :=
  next_of h (Sound.ite ((Cap.sound (cap_judgeMessage m s)).trans (sound_captureEvent _)) (sound_refl s))

/-! ## Writer -/

theorem sound_passOver (i : Nat) (s : State) : Sound s (passOver i s) :=
  ((sound_setItems _ s).trans (sound_addTotals _ _)).trans (sound_setWriter _ _)

theorem sound_takeItem (s : State) : Sound s (takeItem s) := by
  unfold takeItem
  split
  · exact Sound.ite (Cap.sound (cap_finishStop s)) (sound_refl s)
  · exact Cap.sound (cap_reachCut _ s)
  · next i _ _ _ =>
    have h : Sound s (applyChanges i (setWriter (fun w => { w with nextFrame := some i }) s)) :=
      (sound_setWriter _ s).trans (Cap.sound (cap_applyChanges _ _))
    dsimp only
    split
    · exact h.trans (sound_passOver _ _)
    · exact h.trans (Cap.sound (cap_writeFrames _ _))
    · exact h.trans (Cap.sound (cap_recordFrame _ _))
    · exact h

theorem sound_execWriterTakeItem {s t : State} (h : execWriterTakeItem s = .next t) : Sound s t :=
  next_of h (Sound.ite ((sound_takeItem s).trans (sound_captureEvent _)) (sound_refl s))

theorem sound_execWaitingRequestOffer {s t : State} (h : execWaitingRequestOffer s = .next t) : Sound s t :=
  next_of h (Sound.ite (((sound_setWriter _ s).trans (Cap.sound (cap_repeatRequest _))).trans (sound_captureEvent _))
    (sound_refl s))

theorem sound_finishAbort (s : State) : Sound s (finishAbort s) := by
  unfold finishAbort
  have h : Sound s
      (sendDrainDone
        (enterStopped { unbound := false, aborted := true }
          (setWriter (fun w => Writer.idle w.params)
            (clearMarks .ignored (clearHandOver .ignored (clearPending (intakeIdle (discardChain (sealTruncating s))))))))) :=
    ((Cap.sound (((((cap_sealTruncating s).trans (cap_discardChain _)).trans (cap_intakeIdle _)).trans
      (cap_clearPending _)).trans ((cap_clearHandOver _ _).trans (cap_clearMarks _ _)))).trans
        (sound_setWriter _ _)).trans ((Cap.sound (cap_enterStopped _ _)).trans (sound_sendDrainDone _))
  dsimp only
  generalize sendDrainDone _ = x at h ⊢
  split
  · refine Sound.trans ?_ (sound_answer _ _ _ _ _)
    exact h.trans (sound_of rfl rfl rfl rfl rfl rfl)
  · exact h

theorem sound_burstCounts (b : WriterBurst) (s : State) : Sound s (burstCounts b s) :=
  ((sound_setItems _ s).trans (sound_setWriter _ _)).trans (sound_addTotals _ _)

theorem sound_afterBurst (s : State) : Sound s (afterBurst s) := by
  unfold afterBurst
  have key : ∀ x, Sound s x →
      Sound s (if x.stopWork && (leadingFrames x.intake.items).isEmpty then finishStop x else x) :=
    fun x h => Sound.ite (h.trans (Cap.sound (cap_finishStop _))) h
  refine Sound.ite (sound_finishAbort s) (key _ ?_)
  split
  · exact Cap.sound (cap_sealComplete _ s)
  · exact Sound.ite (Cap.sound (cap_sealSpan s)) (sound_refl s)

theorem sound_askNext (s : State) : Sound s (askNext s) :=
  Sound.ite ((sound_takeItem s).trans (Cap.sound (cap_settle _))) (sound_refl s)

theorem sound_writerBurstDone (b : WriterBurst) (s : State) : Sound s (writerBurstDone b s) :=
  (((((sound_burstCounts b s).trans (Cap.sound (cap_growthReport b _))).trans (sound_afterBurst _)).trans
    (Cap.sound (cap_settle _))).trans (sound_askNext _)).trans (sound_engineEvent _)

theorem sound_strayBurstDone (s : State) : Sound s (strayBurstDone s) :=
  Sound.ite ((sound_takeItem s).trans (sound_captureEvent _)) (sound_arbitrate s)

/-- A writer burst's completion writes capture memory; the rest of it keeps what the others keep. -/
theorem execWriterBurstDone_next {ks : List Strike} {s t : State} (h : execWriterBurstDone ks s = .next t) :
    t = s ∨ ∃ b, (s.mem.busy = some (.writer b) ∨ s.mem.busy = some (.stray b)) ∧ Sound (storeBurst b ks s) t := by
  unfold execWriterBurstDone at h
  split at h
  · next b hb =>
    split at h
    · exact Or.inr ⟨b, Or.inl hb, next_of h (sound_writerBurstDone b _)⟩
    · cases h
  · next b hb =>
    split at h
    · exact Or.inr ⟨b, Or.inr hb, next_of h (sound_strayBurstDone _)⟩
    · cases h
  · cases h; exact Or.inl rfl

theorem debt_mergeAll : ∀ (gs : List Nat) (m : MemService), (gs.foldl mergeGranule m).debt = m.debt
  | [], _ => rfl
  | g :: gs, m => debt_mergeAll gs (mergeGranule m g)

theorem debt_writeBurst (m : MemService) (a : Nat) (bs : List Byte) : (m.writeBurst a bs).debt = m.debt :=
  debt_mergeAll _ m

/-! ## Holds and windows -/

theorem sound_refuseHold (r : Passed) (st : Status) (s : State) : Sound s (refuseHold r st s) :=
  (sound_countHolds _ s).trans (sound_answer _ _ _ _ _)

theorem sound_placeHold (r : Passed) (a : HoldArgs) (s : State) : Sound s (placeHold r a s) := by
  unfold placeHold
  split
  · exact Sound.trans (Sound.trans (sound_modifyBank _ _ s) (sound_countHolds _ _)) (sound_answer _ _ _ _ _)
  · exact sound_refuseHold _ _ s

theorem sound_renewHold (r : Passed) (n : Nat) (g : BitVec 16) (s : State) : Sound s (renewHold r n g s) := by
  unfold renewHold
  split
  · exact sound_refuseHold _ _ s
  · exact Sound.trans (Sound.trans (sound_modifyBank _ _ s) (sound_countHolds _ _)) (sound_answer _ _ _ _ _)

theorem sound_freeHold (p : Port) (i : Fin 16) (s : State) : Sound s (freeHold p i s) := Low.sound (low_freeHold p i s)

theorem sound_releaseHold (r : Passed) (n : Nat) (g : BitVec 16) (s : State) : Sound s (releaseHold r n g s) := by
  unfold releaseHold
  split
  · exact sound_refuseHold _ _ s
  · exact Sound.trans (Sound.trans (sound_freeHold _ _ s) (sound_countHolds _ _)) (sound_answer _ _ _ _ _)

theorem sound_expireHold (p : Port) (i : Fin 16) (s : State) : Sound s (expireHold p i s) := by
  unfold expireHold
  split
  · exact sound_refl s
  · exact Sound.ite (sound_refl s)
      (((sound_freeHold _ _ s).trans (sound_countHolds _ _)).trans (Told.sound (told_notify _ _ _ _)))

theorem sound_emit (p : Port) (e : LinkEvent) (s : State) : Sound s (emit p e s) := Told.sound (told_emit p e s)

theorem sound_logFault (u : FaultUnit) (k : FaultKind) (d : Nat) (s : State) : Sound s (logFault u k d s) :=
  Told.sound (told_logFault u k d s)

theorem sound_answerRead (p : Port) (a : Nat) (ks : List Piece) (bs : List Byte) (s : State) :
    Sound s (answerRead p a ks bs s) := (sound_countPort _ _ s).trans (sound_emit _ _ _)

theorem sound_setWindowAsk (p : Port) (q : List WindowBurst) (s : State) :
    Sound s { s with mem := s.mem.setWindowAsk p q } := by
  cases p <;> exact sound_mem rfl id

theorem sound_serveRead (p : Port) (a n : Nat) (ks : List Piece) (s : State) : Sound s (serveRead p a n ks s) := by
  unfold serveRead
  split
  · exact sound_answerRead _ _ _ _ s
  · exact Sound.trans (Sound.trans (sound_modifyBank _ _ s) (sound_setWindowAsk _ _ _)) (sound_arbitrate _)

theorem sound_answerBySlot (p : Port) (i : Fin 16) (a n : Nat) (s : State) : Sound s (answerBySlot p i a n s) := by
  unfold answerBySlot
  split
  · exact sound_refl s
  · split
    · exact sound_refl s
    · exact sound_serveRead _ _ _ _ s

theorem sound_flag (p : Port) (f : PortUnit → PortUnit) (k : FaultKind) (d : Nat) (c : PortCounters → PortCounters)
    (s : State) (hf : ∀ u, (f u).cplSlots = u.cplSlots ∧ (f u).cplHead = u.cplHead ∧ (f u).cplTail = u.cplTail) :
    Sound s (logFault (portFault p) k d (countPort p c (modifyPort p f s))) :=
  ((sound_modifyPort (hf _).1 (hf _).2.1 (hf _).2.2).trans (sound_countPort _ _ _)).trans (sound_logFault _ _ _ _)

theorem sound_windowRead (p : Port) (a n : Nat) (s : State) : Sound s (windowRead p a n s) := by
  unfold windowRead
  have h := sound_countPort p (fun c => { c with windowReads := sat c.windowReads 1 }) s
  dsimp only
  generalize countPort p _ s = x at h ⊢
  have hd : Sound s (decodeConflict p a x) := h.trans (sound_flag _ _ _ _ _ x (by intro _; exact ⟨rfl, rfl, rfl⟩))
  split
  · exact h.trans ((sound_flag _ _ _ _ _ x (by intro _; exact ⟨rfl, rfl, rfl⟩)).trans (sound_emit _ _ _))
  · exact h.trans (sound_answerBySlot _ _ _ _ x)
  · exact Sound.ite (hd.trans (sound_emit _ _ _)) (hd.trans (sound_answerBySlot _ _ _ _ _))

theorem sound_execWindowRead {p : Port} {a n : Nat} {s t : State} (h : execWindowRead p a n s = .next t) : Sound s t := by
  unfold execWindowRead at h
  split at h
  · exact next_of h (sound_windowRead p a n s)
  · cases h

theorem sound_endRead (p : Port) (id : Nat) (s : State) : Sound s (endRead p id s) :=
  Sound.trans (sound_modifyBank _ _ s) (sound_setWindowAsk _ _ _)

theorem sound_fillRead (b : WindowBurst) (d : List Byte) (r : ReadInFlight) (s : State) : Sound s (fillRead b d r s) := by
  unfold fillRead
  dsimp only
  split
  · exact (sound_endRead _ _ s).trans (sound_answerRead _ _ _ _ _)
  · exact sound_modifyBank _ _ s

theorem sound_windowBurstDone (b : WindowBurst) (r : ReadResult) (s : State) : Sound s (windowBurstDone b r s) := by
  unfold windowBurstDone
  have h : Sound s (r.bad.foldl (fun s _ => damageEntry b.record b.epoch s) s) :=
    Sound.foldl _ (fun s _ => Low.sound (low_damageEntry _ _ s)) _ s
  dsimp only
  generalize List.foldl _ s r.bad = x at h ⊢
  split
  · exact h
  · exact Sound.ite (h.trans (sound_fillRead _ _ _ _)) (h.trans ((sound_endRead _ _ _).trans (sound_emit _ _ _)))

theorem sound_execWindowReadBurstDone {ks : List Strike} {s t : State} (h : execWindowReadBurstDone ks s = .next t) :
    Sound s t := by
  unfold execWindowReadBurstDone at h
  split at h
  · split at h
    · refine next_of h ?_
      exact ((((sound_strikeAll ks s).trans (sound_releaseGrant _)).trans (sound_readEffects _ _)).trans
        (sound_windowBurstDone _ _ _)).trans (sound_arbitrate _)
    · cases h
  · exact next_of h (sound_refl s)

theorem sound_timeoutRead (p : Port) (r : ReadInFlight) (s : State) : Sound s (timeoutRead p r s) :=
  ((sound_endRead _ _ s).trans (sound_flag _ _ _ _ _ _ (by intro _; exact ⟨rfl, rfl, rfl⟩))).trans (sound_emit _ _ _)

theorem sound_execReadTimeout {p : Port} {n : Nat} {s t : State} (h : execReadTimeout p n s = .next t) : Sound s t := by
  refine next_of h ?_
  split
  · exact sound_refl s
  · exact sound_timeoutRead _ _ s

theorem sound_execApertureWrite {p : Port} {a : Nat} {bs : List Byte} {s t : State} (h : execApertureWrite p a bs s = .next t) :
    Sound s t := by
  unfold execApertureWrite at h
  split at h
  · exact next_of h ((sound_flag _ _ _ _ _ s (by intro _; exact ⟨rfl, rfl, rfl⟩)).trans (sound_emit _ _ _))
  · cases h

theorem sound_execHoldExpiry {p : Port} {i : Fin 16} {s t : State} (h : execHoldExpiry p i s = .next t) : Sound s t :=
  next_of h (sound_expireHold p i s)

/-! ## The aligner's requests -/

theorem sound_arm (r : Passed) (s : State) : Sound s (arm r s) := by
  unfold arm
  split
  · refine Sound.ite ?_ (sound_answer _ _ _ _ _)
    have h : Cap s (dropLaterChanges s.aligner.nextReceived s) := cap_setWriter rfl
    exact ((Cap.sound (((h.trans (cap_tellWriter _ _ _)).trans (cap_enterArming _ _)).trans (cap_settle _))).trans
      (sound_answer _ _ _ _ _)).trans (sound_captureEvent _)
  · exact sound_answer _ _ _ _ _

theorem cap_disarmEffect (s : State) : Cap s (disarmEffect s) := by
  have h : ∀ n, Cap s (enterDisarmed (tellWriter n .toPassing (leaveStarved (clearMarks .ignored (clearHandOver .ignored s))))) :=
    fun n => ((((cap_clearHandOver _ s).trans (cap_clearMarks _ _)).trans (cap_leaveStarved _)).trans
      (cap_tellWriter _ _ _)).trans (cap_enterDisarmed _)
  unfold disarmEffect
  split
  · exact cap_setAligner rfl
  · exact (cap_tellWriter _ _ s).trans (cap_enterDisarmed _)
  · exact h _
  · exact h _
  · exact Rel.refl s

theorem sound_disarm (r : Passed) (s : State) : Sound s (disarm r s) := by
  unfold disarm
  split
  · exact ((Cap.sound (((cap_clearPending s).trans (cap_disarmEffect _)).trans (cap_settle _))).trans
      (sound_answer _ _ _ _ _)).trans (sound_captureEvent _)
  · exact sound_answer _ _ _ _ _

theorem sound_forceTrigger (r : Passed) (s : State) : Sound s (forceTrigger r s) := by
  unfold forceTrigger
  have h := Cap.sound (cap_indexOrFree s.aligner.newest s)
  dsimp only
  generalize indexOrFree s.aligner.newest s = x at h ⊢
  refine Sound.trans (Sound.trans (Sound.trans (h.trans ?_) (Cap.sound (cap_settle _))) (sound_answer _ _ _ _ _))
    (sound_captureEvent _)
  split
  · exact (sound_countTrigger _ _).trans (Cap.sound (cap_judgeRaw _ _ _ _))
  · exact sound_refl _

/-! ## Queries and fault requests -/

theorem sound_queryEntry (r : Passed) (n : Nat) (f : Entry → List Field) (s : State) : Sound s (queryEntry r n f s) := by
  unfold queryEntry
  split <;> exact sound_answer _ _ _ _ _

theorem sound_readCounters (r : Passed) (g : Nat) (c : Bool) (s : State) : Sound s (readCounters r g c s) := by
  unfold readCounters
  dsimp only
  refine Sound.ite (Sound.trans ?_ (sound_answer _ _ _ _ _)) (sound_answer _ _ _ _ _)
  exact Sound.ite (sound_of rfl rfl rfl rfl rfl rfl) (sound_refl s)

theorem sound_clearFaults (r : Passed) (u : BitVec 8) (s : State) : Sound s (clearFaults r u s) := by
  unfold clearFaults
  refine Sound.ite (Sound.trans ?_ (sound_answer _ _ _ _ _)) (sound_answer _ _ _ _ _)
  exact sound_of rfl rfl rfl rfl rfl rfl

theorem sound_setFaultEnable (r : Passed) (u : Nat) (m : BitVec 8) (s : State) : Sound s (setFaultEnable r u m s) := by
  unfold setFaultEnable
  split
  · refine Sound.ite (Sound.trans ?_ (sound_answer _ _ _ _ _)) (sound_answer _ _ _ _ _)
    exact sound_of rfl rfl rfl rfl rfl rfl
  · exact sound_answer _ _ _ _ _

/-! ## The session unit -/

theorem sound_configure (r : Passed) (c : RawConfig) (s : State) : Sound s (configure r c s) := by
  unfold configure
  refine Sound.ite (sound_answer _ _ _ _ _) ?_
  split
  · exact sound_answer _ _ _ _ _
  · exact (sound_setSession _ s).trans (sound_answerBy _ _ _)

theorem sound_convertEntry (acc : Nat × State) (e : Entry) : Sound acc.2 (convertEntry acc e).2 := by
  unfold convertEntry
  split
  · exact Low.sound (((low_revokeHolds e.number acc.2).trans (low_loseEntry _ _)).trans (low_returnChain _ _))
  · exact sound_refl _

theorem sound_convertFold : ∀ (es : List Entry) (acc : Nat × State), Sound acc.2 (es.foldl convertEntry acc).2
  | [], _ => sound_refl _
  | e :: es, acc => (sound_convertEntry acc e).trans (sound_convertFold es _)

theorem sound_startBlocks (c : ConfigRec) (g : Option GroupInTransfer) (s : State) : Sound s (startBlocks c g s) :=
  sound_of rfl rfl rfl rfl rfl rfl

theorem sound_acceptStart (r : Passed) (c : ConfigRec) (d : Bool) (g : Option GroupInTransfer) (s : State) :
    Sound s (acceptStart r c d g s) := by
  have h1 : ∀ x : State, Sound x { x with catalog := { x.catalog with session := wrapToOne x.catalog.session } } :=
    fun x => ⟨rfl, rfl, fun ⟨a, b, c, d⟩ => ⟨a, b, c, d⟩, id, fun p => by cases p <;> exact queueKept_refl _⟩
  have h2 : ∀ x : State, Sound x (if d then discardAll x else (0, x)).2 := by
    intro x
    split
    · exact sound_convertFold _ (0, x)
    · exact sound_refl x
  have h3 := (sound_setSession (fun k => { k with state := .running, stopTaken := false, totals := Totals.zero }) s).trans
    (h1 _)
  unfold acceptStart
  generalize setSession _ s = x at h3 ⊢
  dsimp only at h3 ⊢
  have h4 := h3.trans (h2 _)
  generalize (if d then discardAll _ else _) = y at h4 ⊢
  obtain ⟨n, z⟩ := y
  exact ((Sound.trans h4 (sound_startBlocks c g z)).trans (sound_answer _ _ _ _ _)).trans (sound_captureEvent _)

theorem sound_start (r : Passed) (n : BitVec 32) (d : Bool) (g : Option GroupInTransfer) (s : State) :
    Sound s (start r n d g s) := by
  unfold start
  split
  · exact sound_acceptStart _ _ _ _ s
  · exact sound_answer _ _ _ _ _
  · exact sound_answer _ _ _ _ _

theorem sound_joinDrain (p : Port) (s : State) : Sound s (joinDrain p s) := sound_setSession _ s

theorem cap_alignerStop (s : State) : Cap s (alignerStop s) := by
  unfold alignerStop
  have h := cap_clearPending s
  dsimp only
  generalize clearPending s = x at h ⊢
  have a : ∀ f : Aligner → Aligner, (∀ a, (f a).params = a.params) → Cap s (setAligner f x) :=
    fun f hf => h.trans (cap_setAligner (hf _))
  have b := h.trans (cap_enterDisarmed x)
  split
  · exact a _ (fun _ => rfl)
  · exact h
  · exact Rel.ite (a _ (fun _ => rfl)) b
  · exact Rel.ite (a _ (fun _ => rfl)) b
  · exact b

theorem sound_withdrawWriter (s : State) : Sound s (withdrawWriter s) := sound_mem rfl id

theorem sound_passLeading (s : State) : Sound s (passLeading s) := by
  unfold passLeading
  exact Sound.trans (sound_setItems _ s) (sound_addTotals _ _)

theorem sound_writerStop (s : State) : Sound s (writerStop s) := by
  unfold writerStop
  split
  · exact (sound_passLeading s).trans (Cap.sound (cap_finishStop _))
  · exact (Cap.sound (cap_leaveStarved s)).trans (Cap.sound (cap_finishStop _))
  · exact Sound.ite (Cap.sound (cap_finishStop s)) (sound_refl s)
  · exact Cap.sound (cap_finishStop s)

theorem sound_firstStop (s : State) : Sound s (firstStop s) := by
  unfold firstStop
  have h := Cap.sound (cap_alignerStop s)
  dsimp only
  generalize alignerStop s = x at h ⊢
  have k : Sound s (setWriter (fun w => { w with stopping := true }) x) := h.trans (sound_setWriter _ x)
  generalize setWriter _ x = y at k ⊢
  refine Sound.ite (k.trans (sound_setSession _ y)) ?_
  exact (k.trans ((sound_setSession _ y).trans (sound_setIntake _ _))).trans (sound_writerStop _)

theorem sound_answerStop (r : Passed) (s : State) : Sound s (answerStop r s) :=
  (sound_answer _ _ _ _ s).trans (sound_captureEvent _)

theorem sound_stop (r : Passed) (s : State) : Sound s (stop r s) := by
  unfold stop
  have h := sound_joinDrain r.port s
  split
  · exact sound_answer _ _ _ _ _
  · exact Sound.ite (h.trans (sound_answerStop _ _)) ((h.trans (sound_firstStop _)).trans (sound_answerStop _ _))
  · exact h.trans (sound_answerStop _ _)

theorem sound_countAbortDrops (n : Nat) (s : State) : Sound s (countAbortDrops n s) :=
  (sound_countIntake _ s).trans (sound_addTotals _ _)

theorem sound_intakeAbort (s : State) : Sound s (intakeAbort s) := by
  unfold intakeAbort
  exact Sound.trans (sound_countAbortDrops _ s) (sound_setIntake _ _)

theorem sound_alignerAbort (s : State) : Sound s (alignerAbort s) :=
  (Cap.sound (((cap_clearPending s).trans (cap_clearHandOver _ _)).trans (cap_clearMarks _ _))).trans
    ((sound_setAligner _ _).trans (Cap.sound (cap_enterDisarmed _)))

theorem sound_abortSession (s : State) : Sound s (abortSession s) := by
  unfold abortSession
  have h : Sound s
      (setWriter
        (fun w => { w with aborting := true, handed := none, gapFollowUp := false, changes := [] })
        (leaveStarved (withdrawWriter (alignerAbort (intakeAbort s))))) :=
    ((((sound_intakeAbort s).trans (sound_alignerAbort _)).trans (sound_withdrawWriter _)).trans
      (Cap.sound (cap_leaveStarved _))).trans (sound_setWriter _ _)
  generalize setWriter _ _ = x at h ⊢
  exact Sound.ite h (h.trans (sound_finishAbort _))

theorem sound_abort (r : Passed) (s : State) : Sound s (abort r s) := by
  unfold abort
  split
  · exact sound_answer _ _ _ _ _
  · exact ((Cap.sound (cap_enterStopped _ s)).trans (sound_sendDrainDone _)).trans (sound_answer _ _ _ _ _)
  · exact ((sound_setSession _ s).trans (sound_abortSession _)).trans (sound_captureEvent _)

theorem numbered_reset (e : BitVec 16) : ({ Catalog.reset with epoch := e } : Catalog).Numbered :=
  ⟨rfl, Nat.zero_lt_one, Nat.zero_le _, (by decide : 1 ≤ 4294967295)⟩

theorem sound_resetCatalog (s : State) : Sound s (resetCatalog s) := by
  unfold resetCatalog
  have h : Sound s
      { s with
        catalog := { Catalog.reset with epoch := s.catalog.epoch + 1 }
        counters := Counters.zero
        session := { s.session with totals := Totals.zero } } :=
    ⟨rfl, rfl, fun _ => numbered_reset _, id, fun p => by cases p <;> exact queueKept_refl _⟩
  dsimp only
  refine Sound.trans (Sound.trans h (Low.sound (Rel.foldl _ (fun s b => low_retireBlock b s) _ _))) (Low.sound (low_blocks _ _))

theorem sound_answerUnbinding (s : State) : Sound s (answerUnbinding s) := by
  unfold answerUnbinding
  split
  · exact sound_answer _ _ _ _ s
  · exact sound_refl s

theorem sound_finishReset (s : State) : Sound s (finishReset s) := by
  unfold finishReset
  have h : Sound s (engineReset (answerUnbinding s)) := (sound_answerUnbinding s).trans (sound_of rfl rfl rfl rfl rfl rfl)
  dsimp only
  generalize engineReset (answerUnbinding s) = x at h ⊢
  split
  · exact ((h.trans (sound_setSession _ x)).trans (Told.sound (told_notify _ _ _ _))).trans (sound_answer _ _ _ _ _)
  · exact h

theorem sound_resetPart (r : Passed) (s : State) : Sound s (resetPart r s) := by
  unfold resetPart
  split
  · have h : Sound s (resetCatalog (rewind false (setSession (fun k => { k with inProgress := some (.resetPart r) }) s))) :=
      ((sound_setSession _ s).trans (sound_rewind _ _)).trans (sound_resetCatalog _)
    dsimp only
    generalize resetCatalog _ = x at h ⊢
    exact Sound.ite (h.trans (sound_setEngine _ _)) (h.trans (sound_finishReset _))
  · exact sound_answer _ _ _ _ _

theorem sound_endWait (s : State) : Sound s (endWait s) := by
  unfold endWait
  split
  · exact Sound.ite ((sound_finishUnbind _ s).trans (sound_arbitrate _)) (sound_refl s)
  · exact Sound.ite (sound_refl s) (sound_finishReset s)
  · exact sound_refl s

theorem sound_archiveBurstDone (d : Bool) (r : ReadResult) (s : State) : Sound s (archiveBurstDone d r s) := by
  unfold archiveBurstDone
  have h : Sound s (readEffects r (arbitrate (releaseGrant s))) :=
    ((sound_releaseGrant s).trans (sound_arbitrate _)).trans (sound_readEffects _ _)
  have h2 : Sound s (if d then readEffects r (arbitrate (releaseGrant s))
      else takeArchiveData r (readEffects r (arbitrate (releaseGrant s)))) :=
    Sound.ite h (h.trans (sound_takeArchiveData _ _))
  exact Sound.ite (h2.trans (sound_endWait _)) (h2.trans (sound_engineEvent _))

theorem sound_execArchiveBurstDone {ks : List Strike} {s t : State} (h : execArchiveBurstDone ks s = .next t) : Sound s t := by
  unfold execArchiveBurstDone at h
  split at h
  · split at h
    · exact next_of h ((sound_strikeAll ks s).trans (sound_archiveBurstDone _ _ _))
    · cases h
  · exact next_of h (sound_refl s)

theorem sound_execArchiveWriteAck {n : Nat} {s t : State} (h : execArchiveWriteAck n s = .next t) : Sound s t := by
  refine next_of h ?_
  split
  · exact sound_refl s
  · have k : Sound s (answerWrite n s) := sound_setEngine _ s
    exact Sound.ite (k.trans (sound_endWait _))
      (Sound.ite (k.trans (sound_endFaultWait _)) (k.trans (sound_ackWrite _ _)))

theorem sound_execLinkWriteError {n : Nat} {s t : State} (h : execLinkWriteError n s = .next t) : Sound s t := by
  refine next_of h ?_
  split
  · exact sound_refl s
  · have k : Sound s (answerWrite n s) := sound_setEngine _ s
    exact Sound.ite (k.trans (sound_endWait _))
      (Sound.ite (k.trans (sound_endFaultWait _)) ((k.trans (sound_faultEngine _ _)).trans (sound_endFaultWait _)))

/-! ## Port units -/

theorem sound_refuseEntry (p : Port) (e : List Byte) (st : Status) (d : Nat) (k : FaultKind) (n : Nat) (s : State) :
    Sound s (refuseEntry p e st d k n s) := (sound_logFault _ _ _ s).trans (sound_writeCompletion _ _ _)

theorem sound_takeRequest (p : Port) (s : State) : Sound s (takeRequest p s) := by
  unfold takeRequest
  have h : Sound s
      (countPort p (fun c => { c with requestsTaken := sat c.requestsTaken 1 })
        (modifyPort p (fun u => { u with reqHead := u.reqHead + 1 }) s)) :=
    (sound_modifyPort rfl rfl rfl).trans (sound_countPort _ _ _)
  dsimp only
  generalize countPort p _ _ = x at h ⊢
  split
  · exact h.trans (sound_refuseEntry _ _ _ _ _ _ _)
  · exact h.trans (sound_refuseEntry _ _ _ _ _ _ _)
  · exact Sound.trans (Sound.trans h (sound_modifyPort rfl rfl rfl)) (sound_of rfl rfl rfl rfl rfl rfl)

theorem sound_execRequestTake {p : Port} {s t : State} (h : execRequestTake p s = .next t) : Sound s t :=
  next_of h (Sound.ite (sound_takeRequest p s) (sound_refl s))

theorem sound_controlViolation (p : Port) (o : Nat) (s : State) : Sound s (controlViolation p o s) :=
  sound_flag _ _ _ _ _ s (by intro _; exact ⟨rfl, rfl, rfl⟩)

theorem sound_interruptIfEntries (p : Port) (s : State) : Sound s (interruptIfEntries p s) := by
  unfold interruptIfEntries
  exact Sound.ite (Told.sound (told_interrupt p s)) (sound_refl s)

theorem sound_ackControl (p : Port) (o : Nat) (s : State) : Sound s (ackControl p o s) :=
  (sound_engineEvent s).trans (sound_emit _ _ _)

theorem sound_finishWrite (p : Port) (o : Nat) (s : State) (r : Bool × State) (h : Sound s r.2) : Sound s (finishWrite p o r) := by
  unfold finishWrite
  exact Sound.trans (Sound.ite (h.trans (sound_controlViolation _ _ _)) h) (sound_ackControl _ _ _)

theorem sound_writeRequestTail (p : Port) (v : Nat) (s : State) : Sound s (writeRequestTail p v s).2 := by
  unfold writeRequestTail
  split
  · dsimp only; exact sound_modifyPort rfl rfl rfl
  · exact sound_refl s

theorem sound_writePortControl (p : Port) (v : Nat) (s : State) : Sound s (writePortControl p v s) := by
  unfold writePortControl
  have h : Sound s
      (modifyPort p
        (fun u =>
          { u with
            irqEnable := natBit v 0, writeErrorEnable := natBit v 1, conflictErrorEnable := natBit v 2 }) s) :=
    sound_modifyPort rfl rfl rfl
  dsimp only
  generalize modifyPort p _ s = x at h ⊢
  exact Sound.ite (h.trans (sound_interruptIfEntries _ _)) h

theorem sound_writePortStatus (p : Port) (v : Nat) (s : State) : Sound s (writePortStatus p v s) := by
  unfold writePortStatus
  apply sound_modifyPort <;> rfl

theorem sound_execRequestTailWrite {p : Port} {v : BitVec 32} {s t : State} (h : execRequestTailWrite p v s = .next t) :
    Sound s t := next_of h (sound_finishWrite _ _ s _ (sound_writeRequestTail _ _ s))

theorem sound_execPortControlWrite {p : Port} {v : BitVec 32} {s t : State} (h : execPortControlWrite p v s = .next t) :
    Sound s t := next_of h (sound_finishWrite _ _ s _ (sound_writePortControl _ _ s))

theorem sound_execPortStatusWrite {p : Port} {v : BitVec 32} {s t : State} (h : execPortStatusWrite p v s = .next t) :
    Sound s t := next_of h (sound_finishWrite _ _ s _ (sound_writePortStatus _ _ s))

theorem sound_execInterruptWriteError {p : Port} {s t : State} (h : execInterruptWriteError p s = .next t) : Sound s t := by
  refine next_of h (Sound.ite (Sound.trans ?_ (sound_logFault _ _ _ _)) (sound_refl s))
  exact sound_modifyPort rfl rfl rfl

/-! ## The requests -/

theorem sound_execDescribe {p : Port} {s t : State} (h : execDescribe p s = .next t) : Sound s t := by
  refine next_of h ?_
  split
  · next e => exact (sound_takePassed e).trans (sound_answer _ _ _ _ _)
  · exact sound_refl s

theorem sound_execQuerySpan {p : Port} {s t : State} (h : execQuerySpan p s = .next t) : Sound s t := by
  refine next_of h ?_
  split
  · next e => exact (sound_takePassed e).trans (sound_answer _ _ _ _ _)
  · exact sound_refl s

theorem sound_execBindArchive {p : Port} {s t : State} (h : execBindArchive p s = .next t) : Sound s t := by
  refine next_of h ?_
  split
  · next e => exact (sound_takePassed e).trans (sound_bindArchive _ _)
  · exact sound_refl s

theorem sound_execUnbindArchive {p : Port} {s t : State} (h : execUnbindArchive p s = .next t) : Sound s t := by
  refine next_of h ?_
  split
  · next e => exact (sound_takePassed e).trans ((sound_unbindArchive _ _).trans (sound_arbitrate _))
  · exact sound_refl s

theorem sound_execArm {p : Port} {s t : State} (h : execArm p s = .next t) : Sound s t := by
  refine next_of h ?_
  split
  · next e => exact (sound_takePassed e).trans (sound_arm _ _)
  · exact sound_refl s

theorem sound_execDisarm {p : Port} {s t : State} (h : execDisarm p s = .next t) : Sound s t := by
  refine next_of h ?_
  split
  · next e => exact (sound_takePassed e).trans (sound_disarm _ _)
  · exact sound_refl s

theorem sound_execForceTrigger {p : Port} {s t : State} (h : execForceTrigger p s = .next t) : Sound s t := by
  refine next_of h ?_
  split
  · next e => exact (sound_takePassed e).trans (sound_forceTrigger _ _)
  · exact sound_refl s

theorem sound_execReadFaults {p : Port} {s t : State} (h : execReadFaults p s = .next t) : Sound s t := by
  refine next_of h ?_
  split
  · next e => exact (sound_takePassed e).trans (sound_answer _ _ _ _ _)
  · exact sound_refl s

theorem sound_execQueryRecord {p : Port} {s t : State} (h : execQueryRecord p s = .next t) : Sound s t := by
  refine next_of h ?_
  split
  · next e =>
    refine (sound_takePassed e).trans ?_
    split
    · exact sound_queryEntry _ _ _ _
    · exact sound_refl _
  · exact sound_refl s

theorem sound_execQueryMarks {p : Port} {s t : State} (h : execQueryMarks p s = .next t) : Sound s t := by
  refine next_of h ?_
  split
  · next e =>
    refine (sound_takePassed e).trans ?_
    split
    · exact sound_queryEntry _ _ _ _
    · exact sound_refl _
  · exact sound_refl s

theorem sound_execPlaceHold {p : Port} {s t : State} (h : execPlaceHold p s = .next t) : Sound s t := by
  refine next_of h ?_
  split
  · next e =>
    refine (sound_takePassed e).trans ?_
    split
    · exact sound_placeHold _ _ _
    · exact sound_refl _
  · exact sound_refl s

theorem sound_execRenewHold {p : Port} {s t : State} (h : execRenewHold p s = .next t) : Sound s t := by
  refine next_of h ?_
  split
  · next e =>
    refine (sound_takePassed e).trans ?_
    split
    · exact sound_renewHold _ _ _ _
    · exact sound_refl _
  · exact sound_refl s

theorem sound_execReleaseHold {p : Port} {s t : State} (h : execReleaseHold p s = .next t) : Sound s t := by
  refine next_of h ?_
  split
  · next e =>
    refine (sound_takePassed e).trans ?_
    split
    · exact sound_releaseHold _ _ _ _
    · exact sound_refl _
  · exact sound_refl s

theorem sound_execQueryHolds {p : Port} {s t : State} (h : execQueryHolds p s = .next t) : Sound s t := by
  refine next_of h ?_
  split
  · next e =>
    refine (sound_takePassed e).trans ?_
    split
    · exact sound_answer _ _ _ _ _
    · exact sound_refl _
  · exact sound_refl s

theorem sound_execSupplyBuffer {p : Port} {s t : State} (h : execSupplyBuffer p s = .next t) : Sound s t := by
  refine next_of h ?_
  split
  · next e =>
    refine (sound_takePassed e).trans ?_
    split
    · exact sound_supplyBuffer _ _ _ _
    · exact sound_refl _
  · exact sound_refl s

theorem sound_execReadCounters {p : Port} {s t : State} (h : execReadCounters p s = .next t) : Sound s t := by
  refine next_of h ?_
  split
  · next e =>
    refine (sound_takePassed e).trans ?_
    split
    · exact sound_readCounters _ _ _ _
    · exact sound_refl _
  · exact sound_refl s

theorem sound_execClearFaults {p : Port} {s t : State} (h : execClearFaults p s = .next t) : Sound s t := by
  refine next_of h ?_
  split
  · next e =>
    refine (sound_takePassed e).trans ?_
    split
    · exact sound_clearFaults _ _ _
    · exact sound_refl _
  · exact sound_refl s

theorem sound_execSetFaultEnable {p : Port} {s t : State} (h : execSetFaultEnable p s = .next t) : Sound s t := by
  refine next_of h ?_
  split
  · next e =>
    refine (sound_takePassed e).trans ?_
    split
    · exact sound_setFaultEnable _ _ _ _
    · exact sound_refl _
  · exact sound_refl s

theorem sound_execStop {p : Port} {s t : State} (h : execStop p s = .next t) : Sound s t := by
  refine next_of h ?_
  split
  · next e => exact (sound_takePassed (takeSession_some e)).trans (sound_stop _ _)
  · exact sound_refl s

theorem sound_execAbort {p : Port} {s t : State} (h : execAbort p s = .next t) : Sound s t := by
  refine next_of h ?_
  split
  · next e => exact (sound_takePassed (takeSession_some e)).trans (sound_abort _ _)
  · exact sound_refl s

theorem sound_execResetPart {p : Port} {s t : State} (h : execResetPart p s = .next t) : Sound s t := by
  refine next_of h ?_
  split
  · next e => exact (sound_takePassed (takeSession_some e)).trans (sound_resetPart _ _)
  · exact sound_refl s

theorem sound_execConfigure {p : Port} {s t : State} (h : execConfigure p s = .next t) : Sound s t := by
  refine next_of h ?_
  split
  · next e =>
    refine (sound_takePassed (takeSession_some e)).trans ?_
    split
    · exact sound_configure _ _ _
    · exact sound_refl _
  · exact sound_refl s

theorem sound_execStart {p : Port} {g : Option GroupInTransfer} {s t : State} (h : execStart p g s = .next t) : Sound s t := by
  refine next_of h ?_
  split
  · next e =>
    refine (sound_takePassed (takeSession_some e)).trans ?_
    split
    · exact sound_start _ _ _ _ _
    · exact sound_refl _
  · exact sound_refl s

end Sys2Proof.Laws
end

