-- ==== Sys2Proof/Laws/Memory.lean ====
section
/-! SUPPORT. Capture memory: every write keeps the canonical form, and reads give what was written. -/

namespace Sys2Proof.Laws

open Sys2Proof.Machine

/-! ## The canonical form -/

/-- An address is above a lower limit. -/
def above (lo : Option Nat) (a : Nat) : Prop := ∀ l, lo = some l → l < a

theorem rising_cons {lo : Option Nat} {a : Nat} {v : Byte} {cs : List Host.Cell} :
    Memory.risingFrom lo ((a, v) :: cs) = true ↔ above lo a ∧ v ≠ Memory.unlisted ∧ Memory.risingFrom (some a) cs = true := by
  cases lo <;> simp [Memory.risingFrom, above, and_assoc]

theorem rising_weaken {lo : Option Nat} {a : Nat} (h : above lo a) {cs : List Host.Cell}
    (hc : Memory.risingFrom (some a) cs = true) : Memory.risingFrom lo cs = true := by
  cases cs with
  | nil => rfl
  | cons c cs =>
    obtain ⟨b, w⟩ := c
    rw [rising_cons] at hc ⊢
    exact ⟨fun l hl => (h l hl).trans (hc.1 a rfl), hc.2⟩

theorem rising_write (a : Nat) (v : Byte) : ∀ (cs : List Host.Cell) (lo : Option Nat), above lo a →
    Memory.risingFrom lo cs = true → Memory.risingFrom lo (Memory.write a v cs) = true
  | [], lo, ha, _ => by
    unfold Memory.write
    split
    · rfl
    · next h => exact rising_cons.mpr ⟨ha, h, rfl⟩
  | (b, w) :: cs, lo, ha, hc => by
    have hb := rising_cons.mp hc
    unfold Memory.write
    split
    · next hab =>
      split
      · exact hc
      · next h =>
        refine rising_cons.mpr ⟨ha, h, rising_cons.mpr ⟨?_, hb.2⟩⟩
        intro l hl; cases hl; exact hab
    · next hab =>
      split
      · next e =>
        subst e
        split
        · exact rising_weaken hb.1 hb.2.2
        · next h => exact rising_cons.mpr ⟨ha, h, hb.2.2⟩
      · next e =>
        refine rising_cons.mpr ⟨hb.1, hb.2.1, rising_write a v cs (some b) ?_ hb.2.2⟩
        intro l hl; cases hl; omega

/-- A write keeps the canonical form. -/
theorem wf_write (a : Nat) (v : Byte) {cs : List Host.Cell} (h : Memory.wf cs = true) : Memory.wf (Memory.write a v cs) = true :=
  rising_write a v cs none (fun _ hl => by cases hl) h

/-- A run of writes keeps the canonical form. -/
theorem wf_writeRun : ∀ (vs : List Byte) (a : Nat) (cs : List Host.Cell), Memory.wf cs = true →
    Memory.wf (Memory.writeRun a vs cs) = true
  | [], _, _, h => h
  | v :: vs, a, _, h => wf_writeRun vs (a + 1) _ (wf_write a v h)

theorem wf_mergeGranule (m : MemService) (g : Nat) (h : Memory.wf m.cells = true) : Memory.wf (mergeGranule m g).cells = true := by
  unfold mergeGranule
  generalize m.flipped.filter _ = ks
  revert h
  generalize m.cells = cs
  induction ks generalizing cs with
  | nil => exact id
  | cons k ks ih => exact fun h => ih _ (wf_write _ _ h)

theorem wf_mergeAll : ∀ (gs : List Nat) (m : MemService), Memory.wf m.cells = true →
    Memory.wf (gs.foldl mergeGranule m).cells = true
  | [], _, h => h
  | g :: gs, m, h => wf_mergeAll gs _ (wf_mergeGranule m g h)

/-- A write burst keeps the canonical form (R148). -/
theorem wf_writeBurst (m : MemService) (addr : Nat) (bytes : List Byte) (h : Memory.wf m.cells = true) :
    Memory.wf (m.writeBurst addr bytes).cells = true := wf_writeRun _ _ _ (wf_mergeAll _ _ h)

/-! ## Reads -/

theorem read_below {a : Nat} : ∀ {cs : List Host.Cell} {lo : Nat}, Memory.risingFrom (some lo) cs = true → a ≤ lo →
    Memory.read a cs = Memory.unlisted
  | [], _, _, _ => rfl
  | (b, w) :: cs, lo, h, ha => by
    obtain ⟨h1, _, h3⟩ := rising_cons.mp h
    have hb : lo < b := h1 lo rfl
    unfold Memory.read
    rw [if_neg (by omega)]
    exact read_below h3 (by omega)

theorem read_write_rising (a x : Nat) (v : Byte) : ∀ (cs : List Host.Cell) (lo : Option Nat),
    Memory.risingFrom lo cs = true → Memory.read x (Memory.write a v cs) = if x = a then v else Memory.read x cs
  | [], _, _ => by
    unfold Memory.write
    split
    · next h => simp only [Memory.read, h]; split <;> rfl
    · simp only [Memory.read]
  | (b, w) :: cs, lo, hc => by
    obtain ⟨_, _, h3⟩ := rising_cons.mp hc
    unfold Memory.write
    split
    · next hab =>
      split
      · next h =>
        split
        · next e =>
          subst e
          have hr : Memory.read x ((b, w) :: cs) = Memory.unlisted := by
            unfold Memory.read
            rw [if_neg (by omega)]
            exact read_below h3 (by omega)
          rw [hr, h]
        · rfl
      · simp only [Memory.read]
    · next hab =>
      split
      · next e =>
        subst e
        split
        · next h =>
          split
          · next e => subst e; rw [h]; exact read_below h3 le_rfl
          · next e => simp only [Memory.read, e, if_false]
        · simp only [Memory.read]; split <;> rfl
      · next e =>
        have ih := read_write_rising a x v cs (some b) h3
        simp only [Memory.read, ih]
        split_ifs <;> first | rfl | omega

/-- A read after a write of canonical memory. -/
theorem read_write (a x : Nat) (v : Byte) {cs : List Host.Cell} (h : Memory.wf cs = true) :
    Memory.read x (Memory.write a v cs) = if x = a then v else Memory.read x cs := read_write_rising a x v cs none h

/-- A read after a run of writes of canonical memory. -/
theorem read_writeRun (x : Nat) : ∀ (vs : List Byte) (a : Nat) (cs : List Host.Cell), Memory.wf cs = true →
    Memory.read x (Memory.writeRun a vs cs) =
      if a ≤ x ∧ x < a + vs.length then vs.getD (x - a) 0 else Memory.read x cs
  | [], a, cs, _ => by
    rw [if_neg (by simp only [List.length_nil]; omega)]; rfl
  | v :: vs, a, cs, h => by
    rw [Memory.writeRun, read_writeRun x vs (a + 1) _ (wf_write a v h), read_write a x v h]
    simp only [List.length_cons]
    by_cases hx : x = a
    · subst hx
      rw [if_neg (by omega), if_pos rfl, if_pos (by omega)]
      simp
    · by_cases hr : a + 1 ≤ x ∧ x < a + 1 + vs.length
      · rw [if_pos hr, if_pos (by omega)]
        have e : x - a = (x - (a + 1)) + 1 := by omega
        rw [e, List.getD_cons_succ]
      · rw [if_neg hr, if_neg hx, if_neg (by omega)]

/-- A merge changes bytes of its own granule only. -/
theorem read_mergeGranule (m : MemService) (g x : Nat) (h : Memory.wf m.cells = true) (hx : x / Config.granuleBytes ≠ g) :
    Memory.read x (mergeGranule m g).cells = Memory.read x m.cells := by
  have key : ∀ (ks : List (Nat × Nat)), (∀ k ∈ ks, k.2 < 256) → ∀ cs : List Host.Cell, Memory.wf cs = true →
      Memory.read x
        (ks.foldl
          (fun cs k =>
            Memory.write (g * Config.granuleBytes + k.2 / 8)
              (Memory.read (g * Config.granuleBytes + k.2 / 8) cs ^^^ (1 <<< (k.2 % 8))) cs) cs) =
        Memory.read x cs := by
    intro ks
    induction ks with
    | nil => intros; rfl
    | cons k ks ih =>
      intro hk cs hc
      rw [List.foldl_cons, ih (fun j hj => hk j (List.mem_cons_of_mem _ hj)) _ (wf_write _ _ hc), read_write _ _ _ hc, if_neg]
      have := hk k List.mem_cons_self
      unfold Config.granuleBytes at hx ⊢
      omega
  refine key _ (fun k hk => ?_) m.cells h
  have h2 := (List.mem_filter.mp hk).2
  simp only [Bool.and_eq_true, decide_eq_true_eq] at h2
  exact h2.2

theorem read_mergeAll (x : Nat) : ∀ (gs : List Nat) (m : MemService), Memory.wf m.cells = true →
    (x / Config.granuleBytes ∉ gs) → Memory.read x (gs.foldl mergeGranule m).cells = Memory.read x m.cells
  | [], _, _, _ => rfl
  | g :: gs, m, h, hx => by
    rw [List.foldl_cons, read_mergeAll x gs _ (wf_mergeGranule m g h) (fun hm => hx (List.mem_cons_of_mem _ hm))]
    exact read_mergeGranule m g x h (fun e => hx (e ▸ List.mem_cons_self))

/-- A write burst: its own bytes, and every byte of a granule it does not touch (R148). -/
theorem read_writeBurst (m : MemService) (addr : Nat) (bytes : List Byte) (x : Nat) (h : Memory.wf m.cells = true)
    (hx : (addr ≤ x ∧ x < addr + bytes.length) ∨ x / Config.granuleBytes ∉ granulesOf addr bytes.length) :
    Memory.read x (m.writeBurst addr bytes).cells =
      if addr ≤ x ∧ x < addr + bytes.length then bytes.getD (x - addr) 0 else Memory.read x m.cells := by
  show Memory.read x (Memory.writeRun addr bytes ((granulesOf addr bytes.length).foldl mergeGranule m).cells) = _
  rw [read_writeRun x bytes addr _ (wf_mergeAll _ _ h)]
  split
  · rfl
  · next hn =>
    rcases hx with hx | hx
    · exact absurd hx hn
    · exact read_mergeAll x _ m h hx

end Sys2Proof.Laws
end

