-- ==== Sys2Proof/Laws/Whole.lean ====
section
/-! SUPPORT. The commands that move a completion head or reset a port, the tick of the timers, the start of the part and
the end of its calibration. -/

namespace Sys2Proof.Laws

open Sys2Proof.Machine

/-- What `Sound` says, without port p's completion queue. -/
structure Base (p : Port) (s t : State) : Prop where
  cells : t.mem.cells = s.mem.cells
  waiting : t.pending = s.pending
  numbered : s.catalog.Numbered → t.catalog.Numbered
  debt : s.debtBounded → t.debtBounded
  other : QueueKept (s.port p.other) (t.port p.other)

theorem Sound.base {p : Port} {s t : State} (h : Sound s t) : Base p s t :=
  ⟨h.cells, h.waiting, h.numbered, h.debt, h.queue _⟩

theorem base_refl (p : Port) (s : State) : Base p s s := ⟨rfl, rfl, id, id, queueKept_refl _⟩

theorem Base.trans {p : Port} {s t u : State} (h : Base p s t) (k : Base p t u) : Base p s u :=
  ⟨k.cells.trans h.cells, k.waiting.trans h.waiting, k.numbered ∘ h.numbered, k.debt ∘ h.debt,
    queueKept_trans h.other k.other⟩

theorem Base.ite {p : Port} {s t u : State} {c : Prop} [Decidable c] (h : Base p s t) (k : Base p s u) :
    Base p s (if c then t else u) := by split <;> assumption

theorem Base.foldl {p : Port} {α : Type} (f : State → α → State) (hf : ∀ s a, Base p s (f s a)) :
    ∀ (l : List α) (s : State), Base p s (l.foldl f s)
  | [], s => base_refl p s
  | a :: l, s => (hf s a).trans (Base.foldl f hf l (f s a))

theorem base_modifyPort (p : Port) (f : PortUnit → PortUnit) (s : State) : Base p s (modifyPort p f s) := by
  cases p <;> exact ⟨rfl, rfl, id, id, queueKept_refl _⟩

/-! ## Slots that become free -/

theorem sound_releaseHeld (p : Port) (s : State) : Sound s (releaseHeld p s) := by
  unfold releaseHeld
  split
  · split
    · next h =>
      refine Sound.trans (sound_modifyPort (p := p) (f := fun u => { u with held := none }) rfl rfl rfl) ?_
      exact Told.sound (told_enqueue (by rw [modifyPort_port]; exact h) _)
    · exact sound_refl s
  · exact sound_refl s

theorem boundFree_of {p : Port} {s : State} (hb : s.engine.bound = some p) (hf : 0 < (s.port p).free) : s.boundFree = true := by
  simp [State.boundFree, hb, hf]

theorem sound_slotsFreed (p : Port) (s : State) : Sound s (slotsFreed p s) := by
  unfold slotsFreed
  have h := sound_releaseHeld p s
  dsimp only
  generalize releaseHeld p s = x at h ⊢
  split
  · next hc =>
    simp only [Bool.and_eq_true, decide_eq_true_eq] at hc
    have hb := boundFree_of hc.1.1 hc.1.2
    split
    · exact h.trans ((((Eng.sound (eng_writeFilled hb)).trans (Told.sound (told_reportMissed p _))).trans
        (Eng.sound (eng_afterFilled _))).trans (sound_sendDrainDone _))
    · split
      · exact h.trans (((sound_writeErrorFilled _ hb).trans (Told.sound (told_reportMissed p _))).trans
          (sound_afterErrorFilled _))
      · exact h.trans (Told.sound (told_reportMissed p _))
  · exact h.trans (Told.sound (told_reportMissed p _))

/-! ## Register writes -/

theorem base_writeCompletionHead (p : Port) (v : Nat) (s : State) : Base p s (writeCompletionHead p v s).2 := by
  unfold writeCompletionHead
  have h := base_modifyPort p (fun u => { u with irqOutstanding := false }) s
  dsimp only
  generalize modifyPort p _ s = x at h ⊢
  have k := h.trans (sound_interruptIfEntries p x).base
  split
  · split
    · exact k
    · exact h.trans ((base_modifyPort p _ x).trans ((sound_slotsFreed p _).base.trans (sound_interruptIfEntries p _).base))
  · exact k

theorem base_finishWrite (p : Port) (o : Nat) (s : State) (r : Bool × State) (h : Base p s r.2) : Base p s (finishWrite p o r) := by
  unfold finishWrite
  exact Base.trans (Base.ite (h.trans (sound_controlViolation _ _ _).base) h) (sound_ackControl _ _ _).base

theorem base_execCompletionHeadWrite {p : Port} {v : BitVec 32} {s t : State} (h : execCompletionHeadWrite p v s = .next t) :
    Base p s t := by
  cases h; exact base_finishWrite _ _ s _ (base_writeCompletionHead _ _ s)

theorem base_writeRegister (p : Port) (o v : Nat) (s : State) : Base p s (writeRegister p o v s).2 := by
  unfold writeRegister
  split
  · exact (sound_writeRequestTail p v s).base
  · exact base_writeCompletionHead p v s
  · exact (sound_writePortControl p v s).base
  · exact (sound_writePortStatus p v s).base
  · dsimp only; exact base_modifyPort p _ s
  · dsimp only; exact base_modifyPort p _ s
  · exact base_refl p s

theorem base_writeOverlap (p : Port) (o : Nat) (bs : List Byte) (acc : Bool × State) (r : Nat × Nat) :
    Base p acc.2 (writeOverlap p o bs acc r).2 := by
  unfold writeOverlap
  split
  · exact base_refl p _
  · split
    · exact base_writeRegister _ _ _ _
    · exact base_refl p _

theorem base_overlaps (p : Port) (o : Nat) (bs : List Byte) : ∀ (rs : List (Nat × Nat)) (acc : Bool × State),
    Base p acc.2 (rs.foldl (writeOverlap p o bs) acc).2
  | [], _ => base_refl p _
  | r :: rs, acc => (base_writeOverlap p o bs acc r).trans (base_overlaps p o bs rs _)

theorem base_writeSlots (p : Port) (o : Nat) (bs : List Byte) (s : State) : Base p s (writeSlots p o bs s) :=
  Base.foldl _ (fun s _ => Base.ite (base_modifyPort p _ s) (base_refl p s)) _ s

theorem base_execControlWindowWrite {p : Port} {o : Nat} {bs : List Byte} {s t : State}
    (h : execControlWindowWrite p o bs s = .next t) : Base p s t := by
  unfold execControlWindowWrite at h
  split at h
  · cases h
    exact base_finishWrite _ _ s _ ((base_overlaps p o bs controlRegisters (false, s)).trans (base_writeSlots _ _ _ _))
  · cases h

/-! ## Port reset -/

theorem sound_resetSlot (p : Port) (s : State) (i : Fin 16) : Sound s (resetSlot p s i) := by
  unfold resetSlot
  split
  · exact sound_refl s
  · exact (sound_freeHold p i s).trans (sound_countHolds _ _)

theorem sound_resetHolds (p : Port) (s : State) : Sound s (resetHolds p s) := by
  unfold resetHolds
  exact Sound.trans ((Sound.foldl _ (sound_resetSlot p) slots16 s).trans (sound_modifyBank p _ _)) (sound_setWindowAsk p _ _)

theorem sound_resetBinding (p : Port) (s : State) : Sound s (resetBinding p s) := by
  unfold resetBinding
  split
  · split
    · exact (sound_setEngine _ s).trans (sound_finishReset _)
    · exact (sound_rewind true s).trans (sound_unbind _)
  · exact sound_refl s

theorem sound_leaveDrain (p : Port) (s : State) : Sound s (leaveDrain p s) := sound_setSession _ s

/-- After the port unit itself has been reset, a port reset keeps what every command keeps. -/
theorem sound_afterPortReset (p : Port) (s : State) :
    Sound (modifyPort p PortUnit.afterReset s)
      (engineEvent
        (resetBinding p (leaveDrain p (resetHolds p (disownRequests p (modifyPort p PortUnit.afterReset s)))))) := by
  generalize modifyPort p PortUnit.afterReset s = x
  have h : Sound x (disownRequests p x) := sound_of rfl rfl rfl rfl rfl rfl
  exact ((((h.trans (sound_resetHolds p _)).trans (sound_leaveDrain p _)).trans (sound_resetBinding p _))).trans
    (sound_engineEvent _)

theorem base_execPortReset {p : Port} {s t : State} (h : execPortReset p s = .next t) : Base p s t := by
  cases h
  exact (base_modifyPort p _ s).trans (sound_afterPortReset p s).base

/-! ## Timers -/

theorem sound_tickRefresh (s : State) : Sound s (tickRefresh s) := by
  unfold tickRefresh
  refine Sound.ite (Sound.ite (sound_refreshComesDue s) ?_) (sound_refl s)
  exact sound_mem rfl id

theorem sound_tickHold (p : Port) (s : State) (i : Fin 16) : Sound s (tickHold p s i) := by
  unfold tickHold
  split
  · exact sound_refl s
  · exact Sound.ite (sound_refl s) (Sound.ite (sound_modifyBank p _ s) (Sound.ite (sound_expireHold p i s)
      (sound_modifyBank p _ s)))

theorem sound_tickHolds (p : Port) (s : State) : Sound s (tickHolds p s) := Sound.foldl _ (sound_tickHold p) slots16 s

theorem sound_tickReads (p : Port) (s : State) : Sound s (tickReads p s) := by
  unfold tickReads
  exact Sound.trans (sound_modifyBank p _ s) (Sound.foldl _ (fun s r => sound_timeoutRead p r s) _ _)

theorem sound_tickFlush (s : State) : Sound s (tickFlush s) := by
  unfold tickFlush
  split
  · exact sound_refl s
  · exact Sound.ite (sound_setEngine _ s) (Sound.ite (sound_expireFlush s) (sound_setEngine _ s))

/-- A tick keeps what every command keeps. -/
theorem sound_tick (s : State) : Sound s (tick s) :=
  (((((((sound_tickRefresh s).trans (sound_tickHolds .p0 _)).trans (sound_tickHolds .p1 _)).trans
    (sound_tickReads .p0 _)).trans (sound_tickReads .p1 _)).trans (sound_tickFlush _))).trans (sound_arbitrate _)

/-! ## The start of the part -/

theorem reset_numbered : State.reset.catalog.Numbered := numbered_reset 0

/-- CALIBRATION_SUCCESS leaves memory with nothing listed, or does nothing. -/
theorem execCalibrationSuccess_next {s t : State} (h : execCalibrationSuccess s = .next t) :
    t = s ∨ Sound { s with mem := { s.mem with cal := .ready, debt := 0, refreshPhase := 0, cells := [], flipped := [], late := [] } } t := by
  unfold execCalibrationSuccess at h
  injection h with h
  subst h
  split
  · exact Or.inr (sound_arbitrate _)
  · exact Or.inl rfl

end Sys2Proof.Laws
end

