-- ==== Sys2Proof/Laws/Reports.lean ====
section
/-! SUPPORT. What a fault report and a notice leave in the state, what settles to nothing, and the free list and the block
table after power-on. -/

namespace Sys2Proof.Laws

open Sys2Proof.Machine

/-! ## Fault reports -/

theorem faultReported_congr {s s' t t' : State} {u : FaultUnit} {k : FaultKind} {d : Nat} (h : FaultReported s t u k d)
    (hs : s'.faults = s.faults) (ht : t'.faults = t.faults) : FaultReported s' t' u k d := by
  refine ⟨?_, ?_, ?_, ?_, ?_, ?_⟩
  · rw [hs, ht]; exact h.masks
  · rw [hs, ht]; exact h.newest
  · rw [hs, ht]; exact h.others
  · rw [hs, ht]; exact h.off
  · rw [hs, ht]; exact h.first
  · rw [hs, ht]; exact h.later

theorem interrupt_faults (p : Port) (s : State) : (interrupt p s).faults = s.faults := by
  unfold interrupt; dsimp only; split <;> simp

theorem notify_faults (p : Port) (k : NoticeKind) (pay : List Field) (s : State) : (notify p k pay s).faults = s.faults := by
  unfold notify
  split
  · unfold enqueue; rw [interrupt_faults]; simp
  · unfold missNotice; simp

/-- What a fault report does to the fault records (R183). -/
theorem faultReported_logFault (u : FaultUnit) (k : FaultKind) (d : Nat) (s : State) :
    FaultReported s (logFault u k d s) u k d := by
  unfold logFault
  split
  · next he =>
    dsimp only
    split
    · next hv =>
      refine ⟨rfl, rfl, ?_, fun h => ?_, fun _ h => ?_, fun _ _ => ?_⟩
      · intro v hv; exact Vector.getElem_set_ne u.idx.isLt v.isLt (fun h => hv (Fin.ext h.symm))
      · rw [he] at h; cases h
      · rw [hv] at h; cases h
      · exact Vector.getElem_set_self u.idx.isLt
    · next hv =>
      refine faultReported_congr (s := s) (t := setFaultRecord u _ s) ?_ rfl
        (by rw [notifyBoth, notify_faults, notify_faults])
      refine ⟨rfl, rfl, ?_, fun h => ?_, fun _ _ => ?_, fun _ h => ?_⟩
      · intro v hv; exact Vector.getElem_set_ne u.idx.isLt v.isLt (fun h => hv (Fin.ext h.symm))
      · rw [he] at h; cases h
      · exact Vector.getElem_set_self u.idx.isLt
      · exact absurd h hv
  · next he => exact ⟨rfl, rfl, fun _ _ => rfl, fun _ => rfl, fun h => absurd h he, fun h => absurd h he⟩

/-! ## States that differ in ports, counters and fault records -/

theorem sameBlocks_iff {s t : State} :
    SameBlocks s t ↔
      t.catalog = s.catalog ∧ t.blocks = s.blocks ∧ t.bank0 = s.bank0 ∧ t.bank1 = s.bank1 ∧ t.engine = s.engine ∧
        t.writer = s.writer ∧ t.aligner = s.aligner ∧ t.intake = s.intake ∧ t.mem = s.mem ∧ t.session = s.session ∧
        t.passed = s.passed ∧ t.freeCount = s.freeCount ∧ t.pending = s.pending := by
  cases s; cases t; unfold SameBlocks
  constructor
  · intro h; injection h; exact ⟨‹_›, ‹_›, ‹_›, ‹_›, ‹_›, ‹_›, ‹_›, ‹_›, ‹_›, ‹_›, ‹_›, ‹_›, ‹_›⟩
  · rintro ⟨rfl, rfl, rfl, rfl, rfl, rfl, rfl, rfl, rfl, rfl, rfl, rfl, rfl⟩; rfl

theorem sameBlocks_refl (s : State) : SameBlocks s s := rfl

theorem sameBlocks_trans {s t u : State} (h : SameBlocks s t) (k : SameBlocks t u) : SameBlocks s u := by
  rw [sameBlocks_iff] at *
  obtain ⟨a, b, c, d, e, f, g, i, j, l, m, n, o⟩ := h
  obtain ⟨a', b', c', d', e', f', g', i', j', l', m', n', o'⟩ := k
  exact ⟨a'.trans a, b'.trans b, c'.trans c, d'.trans d, e'.trans e, f'.trans f, g'.trans g, i'.trans i, j'.trans j,
    l'.trans l, m'.trans m, n'.trans n, o'.trans o⟩

theorem sameBlocks_setPort (p : Port) (u : PortUnit) (s : State) : SameBlocks s (s.setPort p u) := by cases p <;> rfl

theorem sameBlocks_modifyPort (p : Port) (f : PortUnit → PortUnit) (s : State) : SameBlocks s (modifyPort p f s) :=
  sameBlocks_setPort p _ s

theorem sameBlocks_countPort (p : Port) (f : PortCounters → PortCounters) (s : State) :
    SameBlocks s (countPort p f s) := by cases p <;> rfl

theorem sameBlocks_interrupt (p : Port) (s : State) : SameBlocks s (interrupt p s) := by
  unfold interrupt; dsimp only
  split
  · exact sameBlocks_setPort p _ s
  · exact sameBlocks_refl s

theorem sameBlocks_enqueue (p : Port) (slot : List Byte) (s : State) : SameBlocks s (enqueue p slot s) :=
  sameBlocks_trans (sameBlocks_setPort p _ s) (sameBlocks_interrupt p _)

theorem sameBlocks_notify (p : Port) (k : NoticeKind) (pay : List Field) (s : State) : SameBlocks s (notify p k pay s) := by
  unfold notify
  split
  · exact sameBlocks_enqueue p _ s
  · exact sameBlocks_trans (sameBlocks_setPort p _ s) (sameBlocks_countPort p _ _)

theorem sameBlocks_record (u : FaultUnit) (r : FaultRecord) (s : State) : SameBlocks s (setFaultRecord u r s) := rfl

theorem sameBlocks_logFault (u : FaultUnit) (k : FaultKind) (d : Nat) (s : State) : SameBlocks s (logFault u k d s) := by
  unfold logFault
  split
  · dsimp only
    split
    · exact sameBlocks_record u _ s
    · exact sameBlocks_trans (sameBlocks_record u _ s)
        (sameBlocks_trans (sameBlocks_notify .p0 _ _ _) (sameBlocks_notify .p1 _ _ _))
  · exact sameBlocks_refl s

theorem sameBlocks_writeCompletion (p : Port) (c : Completion) (s : State) : SameBlocks s (writeCompletion p c s) := by
  unfold writeCompletion
  split
  · exact sameBlocks_enqueue p _ s
  · exact sameBlocks_setPort p _ s

theorem sameBlocks_answer (r : Passed) (st : Status) (d : Nat) (pay : List Field) (s : State) :
    SameBlocks s (answer r st d pay s) := by
  rw [answer_eq]; exact sameBlocks_setPort _ _ s

theorem sameBlocks_emit (p : Port) (e : LinkEvent) (s : State) : SameBlocks s (emit p e s) := sameBlocks_setPort p _ s

/-! ## Notices -/

theorem slot_same {s t : State} (h : SameBlocks s t) (code : Nat) (pay : List Field) :
    noticeSlot code pay t = noticeSlot code pay s := by
  obtain ⟨hc, -, -, -, -, -, -, -, -, hs, -⟩ := sameBlocks_iff.mp h
  unfold noticeSlot entrySlot; rw [hc, hs]

/-- A notice joins the completion queue, or the pending-notice set (R172, R173). -/
theorem notified_notify (p : Port) (k : NoticeKind) (pay : List Field) (s : State) :
    Notified s (notify p k pay s) p k pay := by
  unfold Notified
  by_cases h : 0 < (s.port p).free
  · left
    rw [slot_same (sameBlocks_notify p k pay s)]
    unfold notify; rw [if_pos h]; exact posted_enqueue h _
  · right
    unfold notify; rw [if_neg h]; unfold missNotice; dsimp only
    rw [countPort_port, setPort_port]
    dsimp only
    refine ⟨?_, rfl⟩
    split
    · next h => exact List.contains_iff_mem.mp h
    · simp

/-! ## Power-on -/

theorem natsFrom_range : ∀ n a, natsFrom a n = (List.range n).map (fun i => a + i)
  | 0, _ => rfl
  | n + 1, a => by rw [natsFrom_snoc, natsFrom_range n a, List.range_succ]; simp

/-- Every block is FREE after power-on (R29). -/
theorem block_reset {b : Nat} (h : b < 8192) : BlockMap.reset.get b = Block.fresh := by
  have e : BlockMap.reset.table = Vector.replicate 8192 Block.fresh := rfl
  unfold BlockMap.get
  rw [dif_pos h, e]
  exact Vector.getElem_replicate (a := Block.fresh) h

end Sys2Proof.Laws
end

