-- ==== Sys2Proof/Laws/Sessions.lean ====
section
/-! SUPPORT. What the steps of a session leave: settling with nothing to settle, the end of the stop work, the end of an
abort, DRAIN_DONE, and the engine outside DRAINING. -/

namespace Sys2Proof.Laws

open Sys2Proof.Machine

/-! ## Settling -/

/-- With nothing to judge again, nothing handed over and no change told, settling once settles nothing. -/
theorem settleOnce_quiet {s : State} (h1 : s.aligner.rejudge = false) (h2 : s.writer.handed = none)
    (h3 : s.writer.changes = []) : settleOnce s = (s, false) := by
  unfold settleOnce
  rw [h1]; simp only [Bool.false_eq_true, if_false]
  cases hn : s.writer.nextFrame with
  | none => rfl
  | some x =>
    dsimp only
    have : applyChanges x s = s := by
      unfold applyChanges; split
      · have e : setWriter (fun w => { w with changes := w.changes.filter (fun c => decide (x < c.1)) }) s = s := by
          show ({ s with
            writer := { s.writer with changes := s.writer.changes.filter (fun c => decide (x < c.1)) } } : State) = s
          rw [h3]
          have : ({ s.writer with changes := List.filter (fun c => decide (x < c.1)) [] } : Writer) = s.writer := by
            show ({ s.writer with changes := [] } : Writer) = s.writer
            rw [← h3]
          rw [this]
        rw [h3, e]; rfl
      · rfl
    rw [this, h2]

/-- With nothing to judge again, nothing handed over and no change told, settling does nothing. -/
theorem settle_quiet {s : State} (h1 : s.aligner.rejudge = false) (h2 : s.writer.handed = none)
    (h3 : s.writer.changes = []) : settle s = s := by
  unfold settle settleLoop
  rw [settleOnce_quiet h1 h2 h3]

/-- With nothing pending, nothing handed over and no change told, settling only clears the mark that a trigger is to be
judged again. -/
theorem settle_nothing {s : State} (h1 : s.aligner.pending = none) (h2 : s.writer.handed = none)
    (h3 : s.writer.changes = []) : settle s = setAligner (fun a => { a with rejudge := false }) s := by
  cases h : s.aligner.rejudge with
  | false =>
    rw [settle_quiet h h2 h3]
    show s = { s with aligner := { s.aligner with rejudge := false } }
    rw [← h]
  | true =>
    have e : settleOnce s = (setAligner (fun a => { a with rejudge := false }) s, true) := by
      unfold settleOnce rejudge; rw [h, h1]; rfl
    have q : settleOnce (setAligner (fun a => { a with rejudge := false }) s) =
        (setAligner (fun a => { a with rejudge := false }) s, false) := settleOnce_quiet rfl h2 h3
    unfold settle settleLoop
    rw [e]
    unfold settleLoop
    dsimp only
    rw [q]

theorem captureEvent_quiet {s : State} (h1 : s.aligner.rejudge = false) (h2 : s.writer.handed = none)
    (h3 : s.writer.changes = []) : captureEvent s = engineEvent s := by
  unfold captureEvent; rw [settle_quiet h1 h2 h3]

/-! ## Steps that keep the session, the intake and the memory service -/

/-- The session apart from its totals, the intake, the memory service,
    and the writer's state and parameters are kept. -/
structure Kept (s t : State) : Prop where
  session : { t.session with totals := s.session.totals } = s.session
  intake : t.intake = s.intake
  mem : t.mem = s.mem
  writerState : t.writer.state = s.writer.state
  writerParams : t.writer.params = s.writer.params

theorem Kept.refl (s : State) : Kept s s := ⟨rfl, rfl, rfl, rfl, rfl⟩

theorem Kept.trans {s t u : State} (h : Kept s t) (k : Kept t u) : Kept s u := by
  refine ⟨?_, k.2.trans h.2, k.3.trans h.3, k.4.trans h.4, k.5.trans h.5⟩
  rw [← h.1]
  have := congrArg (fun x : Session => ({ x with totals := s.session.totals } : Session)) k.1
  exact this

theorem Kept.ite {s t u : State} {c : Prop} [Decidable c] (h : Kept s t) (k : Kept s u) : Kept s
    (if c then t else u) := by
  split <;> assumption

theorem Kept.drain0 {s t : State} (h : Kept s t) : t.session.drain0 = s.session.drain0 := by
  have e := congrArg (fun z : Session => z.drain0) h.1; exact e
theorem Kept.drain1 {s t : State} (h : Kept s t) : t.session.drain1 = s.session.drain1 := by
  have e := congrArg (fun z : Session => z.drain1) h.1; exact e
theorem Kept.inProgress {s t : State} (h : Kept s t) : t.session.inProgress = s.session.inProgress := by
  have e := congrArg (fun z : Session => z.inProgress) h.1; exact e

theorem Low.kept {s t : State} (h : Low s t) : Kept s t :=
  ⟨by have e : t.session = s.session := by
        have e := congrArg (fun x : State => x.session) h.view; exact e
      rw [e],
   by have e := congrArg (fun x : State => x.intake) h.view; exact e,
   by have e := congrArg (fun x : State => x.mem) h.view; exact e,
   by have e := congrArg (fun x : State => x.writer.state) h.view; exact e,
   by have e := congrArg (fun x : State => x.writer.params) h.view; exact e⟩

theorem kept_same {s t : State} (h : SameBlocks s t) : Kept s t := by
  obtain ⟨-, -, -, -, -, hw, -, hi, hm, hs, -⟩ := sameBlocks_iff.mp h
  exact ⟨by rw [hs], hi, hm, by rw [hw], by rw [hw]⟩

theorem kept_countTrigger (f : TriggerCounters → TriggerCounters) (s : State) : Kept s (countTrigger f s) := by
  unfold countTrigger; split <;> exact ⟨rfl, rfl, rfl, rfl, rfl⟩
theorem kept_countCatalog (f : CatalogCounters → CatalogCounters) (s : State) : Kept s (countCatalog f s) := by
  unfold countCatalog; split <;> exact ⟨rfl, rfl, rfl, rfl, rfl⟩
theorem kept_countOutcome (o : TrigOutcome) (n : Nat) (s : State) : Kept s (countOutcome o n s) := kept_countTrigger _ s
theorem kept_setAligner (f : Aligner → Aligner) (s : State) : Kept s (setAligner f s) := ⟨rfl, rfl, rfl, rfl, rfl⟩

theorem kept_sealEntry (f b : Nat) (x : Option Nat) (t : Bool) (s : State) : Kept s (sealEntry f b x t s) := by
  unfold sealEntry; split
  · exact kept_same (sameBlocks_logFault _ _ _ _)
  · exact (Low.kept ((low_growEntry _ _ _ _ s).trans ((low_mapData _ _ _).trans (low_setEntryState _ _ _)))).trans
      (kept_countCatalog _ _)

theorem kept_sealTruncating (s : State) : Kept s (sealTruncating s) := by
  unfold sealTruncating; split
  · exact Kept.refl _
  · exact (kept_sealEntry _ _ _ _ _).trans ((Low.kept (low_storeBlock _ _)).trans ⟨rfl, rfl, rfl, rfl, rfl⟩)

theorem kept_discardChain (s : State) : Kept s (discardChain s) := by
  unfold discardChain
  exact Kept.ite ((Low.kept (low_releaseBlocks _ _)).trans ⟨rfl, rfl, rfl, rfl, rfl⟩) (Kept.refl _)

theorem kept_clearHandOver (o : TrigOutcome) (s : State) : Kept s (clearHandOver o s) := by
  unfold clearHandOver; split
  · exact Kept.refl _
  · exact Kept.trans (t := setAligner (fun a => { a with handOver := none }) (setWriter (fun w => { w with handed :=
        none }) s))
      ⟨rfl, rfl, rfl, rfl, rfl⟩ (kept_countOutcome _ _ _)

theorem kept_clearMarks (o : TrigOutcome) (s : State) : Kept s (clearMarks o s) :=
  (kept_setAligner (fun a => { a with marks := [] }) s).trans (kept_countOutcome _ _ _)

theorem kept_clearPending (s : State) : Kept s (clearPending s) := by
  unfold clearPending; split
  · exact Kept.refl _
  · exact (kept_setAligner (fun a => { a with pending := none }) s).trans (kept_countOutcome _ _ _)

theorem kept_alignerStop (s : State) : Kept s (alignerStop s) := by
  unfold alignerStop; dsimp only
  have h := kept_clearPending s
  split
  · exact h.trans (kept_setAligner _ _)
  · exact h
  · exact Kept.ite (h.trans (kept_setAligner _ _)) (h.trans (kept_setAligner _ _))
  · exact Kept.ite (h.trans (kept_setAligner _ _)) (h.trans (kept_setAligner _ _))
  · exact h.trans (kept_setAligner _ _)

theorem leaveStarved_fields (s : State) :
    (leaveStarved s).session = s.session ∧ (leaveStarved s).aligner = s.aligner ∧ (leaveStarved s).mem = s.mem ∧
      (leaveStarved s).intake = s.intake ∧ (leaveStarved s).writer.params = s.writer.params := by
  unfold leaveStarved; split
  · unfold notifyBoth
    have h := fun p k pay s => sameBlocks_iff.mp (sameBlocks_notify p k pay s)
    have hs := fun p k pay s => (h p k pay s).2.2.2.2.2.2.2.2.2.1
    have hm := fun p k pay s => (h p k pay s).2.2.2.2.2.2.2.2.1
    have hi := fun p k pay s => (h p k pay s).2.2.2.2.2.2.2.1
    have ha := fun p k pay s => (h p k pay s).2.2.2.2.2.2.1
    have hw := fun p k pay s => (h p k pay s).2.2.2.2.2.1
    rw [hs, hs, hm, hm, hi, hi, ha, ha, hw, hw]; exact ⟨rfl, rfl, rfl, rfl, rfl⟩
  · exact ⟨rfl, rfl, rfl, rfl, rfl⟩

/-! ## The end of the stop work -/

/-- A trigger judged by a DISARMED aligner leaves it DISARMED. -/
theorem judge_disarmed (tr : Trigger) {s : State} (h : s.aligner.state = .disarmed) :
    Kept s (judgeSegmented tr s).2 ∧ (judgeSegmented tr s).2.aligner.state = .disarmed := by
  have hd : ∀ o, Kept s (discardTrigger o s).2 ∧ (discardTrigger o s).2.aligner.state = .disarmed := fun o =>
    ⟨kept_countOutcome _ _ _, by unfold discardTrigger countOutcome; rw [countTrigger_aligner]; exact h⟩
  unfold judgeSegmented
  split
  · exact hd _
  · split
    · unfold judgeByState; dsimp only; rw [h]; dsimp only; split <;> exact hd _
    · unfold makePending; split
      · exact hd _
      · exact ⟨⟨rfl, rfl, rfl, rfl, rfl⟩, h⟩

theorem rejudge_disarmed {s : State} (h : s.aligner.state = .disarmed) :
    Kept s (rejudge s) ∧ (rejudge s).aligner.state = .disarmed := by
  unfold rejudge; split
  · exact ⟨kept_setAligner _ _, h⟩
  · next tr _ =>
    have := judge_disarmed tr (s := setAligner (fun a => { a with pending := none, rejudge := false }) s) h
    exact ⟨(kept_setAligner _ _).trans this.1, this.2⟩

theorem clearPending_disarmed {s : State} (h : s.aligner.state = .disarmed) :
    (clearPending s).aligner.state = .disarmed := by
  unfold clearPending; split
  · exact h
  · unfold countOutcome; rw [countTrigger_aligner]; exact h

theorem intakeEnd_fields (s : State) :
    { (intakeEnd s).session with totals := s.session.totals } = s.session ∧ (intakeEnd s).aligner = s.aligner ∧
      (intakeEnd s).writer = s.writer ∧ (intakeEnd s).intake.state = .idle ∧ (intakeEnd s).intake.items = [] := by
  unfold intakeEnd intakeIdle countStopDrops countIntake
  split <;> exact ⟨rfl, rfl, rfl, rfl, rfl⟩

/-- What the end of the stop work leaves (R107, R124, R136, R161, R162). -/
theorem finishStop_fields (s : State) :
    ((finishStop s).session.state = .stopped ∨ (finishStop s).session.state = .draining) ∧
      (finishStop s).writer = Writer.idle s.writer.params ∧ (finishStop s).intake.state = .idle ∧
      (finishStop s).intake.items = [] ∧ (finishStop s).aligner.state = .disarmed ∧
      (finishStop s).session.drain0 = s.session.drain0 ∧ (finishStop s).session.drain1 = s.session.drain1 := by
  unfold finishStop; dsimp only
  generalize hx : setAligner (fun a => { a with capture := none })
    (clearMarks .late (clearHandOver .ignored (discardChain (sealTruncating (setMem MemService.dropWriter s))))) = x
  have kx : Kept (setMem MemService.dropWriter s) x := by
    rw [← hx]
    exact (kept_sealTruncating _).trans ((kept_discardChain _).trans ((kept_clearHandOver _ _).trans
      ((kept_clearMarks _ _).trans (kept_setAligner _ _))))
  have hr := rejudge_disarmed (s := enterDisarmed x) rfl
  generalize hy : clearPending (rejudge (enterDisarmed x)) = y
  have ky : Kept (setMem MemService.dropWriter s) y := by
    rw [← hy]; exact kx.trans ((kept_setAligner _ _).trans (hr.1.trans (kept_clearPending _)))
  have ay : y.aligner.state = .disarmed := by rw [← hy]; exact clearPending_disarmed hr.2
  obtain ⟨ki, ai, wi, si, ii⟩ := intakeEnd_fields y
  have d0 : (intakeEnd y).session.drain0 = s.session.drain0 :=
    (by have e := congrArg (fun z : Session => z.drain0) ki; exact e :
      (intakeEnd y).session.drain0 = y.session.drain0).trans ky.drain0
  have d1 : (intakeEnd y).session.drain1 = s.session.drain1 :=
    (by have e := congrArg (fun z : Session => z.drain1) ki; exact e :
      (intakeEnd y).session.drain1 = y.session.drain1).trans ky.drain1
  have ww : Writer.idle (intakeEnd y).writer.params = Writer.idle s.writer.params := by
    rw [wi, ky.5]; rfl
  generalize intakeEnd y = z at *
  unfold drainCheck; split
  · exact ⟨Or.inr rfl, ww, si, ii, by show z.aligner.state = _; rw [ai]; exact ay, d0, d1⟩
  · exact ⟨Or.inl rfl, ww, si, ii, rfl, d0, d1⟩

/-! ## DRAIN_DONE and the end of an abort -/

/-- A DRAIN_DONE that is due is sent and the drain set emptied (R163). -/
theorem sendDrainDone_fields {s : State} {f : DrainFlags} (h : s.session.drainDue = some f) :
    SameBlocks { s with session := { s.session with drain0 := false, drain1 := false, drainDue := none } }
      (sendDrainDone s) := by
  unfold sendDrainDone; rw [h]; dsimp only
  have hn : ∀ (b : Bool) (q : Port) (pay : List Field) (y : State),
      SameBlocks y (if b = true then notify q .drainDone pay y else y) := by
    intro b q pay y; split
    · exact sameBlocks_notify _ _ _ _
    · exact sameBlocks_refl _
  have := sameBlocks_trans (hn s.session.drain0 .p0 (drainPayload f s) s) (hn s.session.drain1 .p1 (drainPayload f s) _)
  rw [sameBlocks_iff] at this ⊢
  obtain ⟨a1, a2, a3, a4, a5, a6, a7, a8, a9, a10, a11, a12, a13⟩ := this
  exact ⟨a1, a2, a3, a4, a5, a6, a7, a8, a9, by simp only [a10], a11, a12, a13⟩

/-- A notice stands through an answer. -/
theorem notified_answer {s t : State} {p : Port} {k : NoticeKind} {pay : List Field} (h : Notified s t p k pay)
    {r : Passed} (hl : r.live = true) (st : Status) (d : Nat) (pay' : List Field) :
    Notified s (answer r st d pay' t) p k pay := by
  have hr := replied_answer (r := r) hl st d pay' (s := t) (u := t) (fun _ => rfl)
  have hm : ((answer r st d pay' t).port p).missed = (t.port p).missed ∧
      ((answer r st d pay' t).port p).noticesMissed = (t.port p).noticesMissed := by
    by_cases e : p = r.port
    · subst e; rw [hr.others]; exact ⟨rfl, rfl⟩
    · have : p = r.port.other := by cases p <;> cases hq : r.port <;> simp_all [Port.other]
      subst this; rw [hr.otherPort]; exact ⟨rfl, rfl⟩
  unfold Notified at *
  rw [slot_same (sameBlocks_answer r st d pay' t), hm.1, hm.2]
  exact h.imp_left (fun x => posted_mono x ((sound_answer r st d pay' t).queue p))

/-! ## The engine outside DRAINING -/

/-- Outside DRAINING the session unit and the aligner are left alone. -/
def Apart (s t : State) : Prop := s.session.state ≠ .draining → t.session = s.session ∧ t.aligner = s.aligner

theorem Apart.refl (s : State) : Apart s s := fun _ => ⟨rfl, rfl⟩
theorem Apart.of {s t : State} (h1 : t.session = s.session) (h2 : t.aligner = s.aligner) : Apart s t :=
    fun _ => ⟨h1, h2⟩
theorem Apart.trans {s t u : State} (h : Apart s t) (k : Apart t u) : Apart s u := fun hs => by
  have a := h hs
  have b := k (by rw [a.1]; exact hs)
  exact ⟨b.1.trans a.1, b.2.trans a.2⟩
theorem Apart.ite {s t u : State} {c : Prop} [Decidable c] (h : Apart s t) (k : Apart s u) : Apart s
    (if c then t else u) := by
  split <;> assumption
theorem Apart.foldl {α : Type} (f : State → α → State) (hf : ∀ s a, Apart s (f s a)) :
    ∀ (l : List α) (s : State), Apart s (l.foldl f s)
  | [], s => Apart.refl s
  | a :: l, s => (hf s a).trans (Apart.foldl f hf l (f s a))

theorem apart_same {s t : State} (h : SameBlocks s t) : Apart s t := by
  obtain ⟨-, -, -, -, -, -, ha, -, -, hs, -⟩ := sameBlocks_iff.mp h
  exact Apart.of hs ha
theorem Low.apart {s t : State} (h : Low s t) : Apart s t :=
  Apart.of (by have e := congrArg (fun x : State => x.session) h.view; exact e)
    (by have e := congrArg (fun x : State => x.aligner) h.view; exact e)

theorem apart_setEngine (f : Engine → Engine) (s : State) : Apart s (setEngine f s) := Apart.of rfl rfl
theorem apart_countArchive (f : ArchiveCounters → ArchiveCounters) (s : State) : Apart s (countArchive f s) :=
  Apart.of rfl rfl

theorem apart_onBound {f : Port → State → State} (hf : ∀ p s, Apart s (f p s)) (s : State) : Apart s (onBound f s) := by
  unfold onBound; split
  · exact Apart.refl _
  · exact hf _ _

theorem apart_bufferLeft (n : Nat) (s : State) : Apart s (bufferLeft n s) := by
  unfold bufferLeft; dsimp only; split
  · exact (apart_setEngine (fun g => { g with lowArmed := false }) s).trans
      (apart_onBound (fun p s => apart_same (sameBlocks_notify _ _ _ _)) _)
  · exact apart_setEngine _ _

theorem apart_dropClaim (s : State) : Apart s (dropClaim s) := by
  unfold dropClaim; split
  · exact Apart.refl _
  · dsimp only
    have := (apart_setEngine (fun g => { g with claim := none }) s).trans (Low.apart (low_offerBlock _))
    exact Apart.ite (this.trans (Low.apart (low_offerEntry _))) this

theorem apart_issueBytes (b : Buffer) (off : Nat) (bytes : List Byte) (s : State) : Apart s (issueBytes b off bytes s) := by
  unfold issueBytes; dsimp only
  refine Apart.trans (t := setEngine _ s) (Apart.of rfl rfl) (apart_onBound (fun p s => ?_) _)
  exact Apart.foldl _ (fun s w => apart_same (sameBlocks_emit _ _ _)) _ _

theorem apart_placeFrame (b : Buffer) (bytes : List Byte) (s : State) : Apart s (placeFrame b bytes s) :=
  Apart.trans (t := takePlace _ s) (Apart.of rfl rfl) (apart_issueBytes _ _ _ _)

theorem apart_placeData (b : Buffer) (e : Entry) (d : DataFields) (n : Nat) (s : State) : Apart s (placeData b e d n s) :=
  Apart.trans (t := setFrame _ (takePlace _ s)) (Apart.of rfl rfl) (apart_issueBytes _ _ _ _)

theorem apart_issueData (b : Buffer) (f : DataFrame) (s : State) : Apart s (issueData b f s) :=
  Apart.trans (t := setEngine _ s) (Apart.of rfl rfl) (apart_issueBytes _ _ _ _)

theorem apart_finishData (d : DataFields) (f : DataFrame) (s : State) : Apart s (finishData d f s) := Apart.of rfl rfl

theorem apart_writeFilled (s : State) : Apart s (writeFilled s) := by
  unfold writeFilled; split
  · exact Apart.refl _
  · exact apart_onBound (fun p s => apart_same (sameBlocks_enqueue _ _ _)) _

theorem apart_completeEntry (n : Nat) (s : State) : Apart s (completeEntry n s) := by
  unfold completeEntry; split
  · exact Apart.refl _
  · split
    · exact Apart.ite
        (((Low.apart (low_setEntryState _ _ _)).trans (apart_countArchive _ _)).trans (Low.apart (low_offerBlock _)))
        (apart_same (sameBlocks_logFault _ _ _ _))
    · exact Low.apart (low_retireEntry _ _)
    · exact Low.apart (low_retireEntry _ _)
    · exact apart_same (sameBlocks_logFault _ _ _ _)

theorem apart_completeAwaiting (s : State) (a : Nat × Bool) : Apart s (completeAwaiting s a) := by
  unfold completeAwaiting; dsimp only
  exact Apart.ite ((apart_completeEntry _ _).trans (apart_dropClaim _)) (apart_completeEntry _ _)

theorem apart_drainRecheck (s : State) : Apart s (drainRecheck s) := by
  intro h; unfold drainRecheck; rw [if_neg (by simp [h])]; exact ⟨rfl, rfl⟩

theorem apart_afterFilled (s : State) : Apart s (afterFilled s) := by
  unfold afterFilled; dsimp only
  have key : ∀ (f : ArchiveCounters → ArchiveCounters) (x : State),
      Apart x
        (drainRecheck
          (setEngine (fun g => { g with closed := none, used := 0, touched := none, state := .sending })
            (advanceCursor ((countArchive f x).engine.awaiting.foldl completeAwaiting (countArchive f x))))) := by
    intro f x
    refine (apart_countArchive f x).trans ?_
    generalize countArchive f x = y
    refine (Apart.foldl _ apart_completeAwaiting y.engine.awaiting y).trans ?_
    generalize List.foldl _ _ _ = z
    exact Apart.trans
      (t := setEngine (fun g => { g with closed := none, used := 0, touched := none, state :=
          .sending }) (advanceCursor z))
      (Apart.of rfl rfl) (apart_drainRecheck _)
  refine Apart.trans ?_ (key _ _)
  exact (apart_setEngine (fun g => { g with buffers := g.buffers.drop 1 }) s).trans (apart_bufferLeft _ _)

theorem apart_askArchiveBurst (d : DataFields) (f : DataFrame) (s : State) : Apart s (askArchiveBurst d f s) := by
  unfold askArchiveBurst; split
  · exact Apart.refl _
  · exact Apart.refl _
  · split
    · exact Apart.refl _
    · exact Apart.of rfl rfl

theorem apart_produceFrame (b : Buffer) (e : Entry) (s : State) : Apart s (produceFrame b e s).1 := by
  unfold produceFrame; dsimp only
  have cb : Apart s (closeBuffer false s) := Apart.of rfl rfl
  have wh : ∀ (bytes : List Byte) (after : State → State), (∀ x, Apart x (after x)) →
      Apart s
        (if bytes.length ≤ b.size - s.engine.used then (after (placeFrame b bytes s), true)
        else (closeBuffer false s, true)).1 := by
    intro bytes after h; split
    · exact (apart_placeFrame _ _ _).trans (h _)
    · exact cb
  split
  · exact wh _ (advanceStage _) (fun x => Apart.of rfl rfl)
  · split
    · exact apart_placeData _ _ _ _ _
    · exact cb
  · exact wh _ finishEntry (fun x => Apart.of rfl rfl)
  · exact wh _ (fun s => finishEntry (countArchive (fun c => { c with lossFrames := sat c.lossFrames 1 }) s))
      (fun x => Apart.of rfl rfl)
  · exact wh _ (fun s => finishEntry (countArchive (fun c => { c with gapFrames := sat c.gapFrames 1 }) s))
      (fun x => Apart.of rfl rfl)
  · exact Apart.refl _

theorem apart_produce (s : State) : Apart s (produce s).1 := by
  unfold produce; split
  · exact Apart.refl _
  · split
    · exact Apart.of rfl rfl
    · split
      · split
        · exact apart_issueData _ _ _
        · split
          · exact apart_askArchiveBurst _ _ _
          · exact apart_finishData _ _ _
      · exact apart_produceFrame _ _ _

theorem apart_enterIdle (s : State) : Apart s (enterIdle s).1 := by
  unfold enterIdle; split
  · exact Apart.refl _
  · split
    · exact Apart.of rfl rfl
    · split <;> exact Apart.of rfl rfl

theorem apart_examine (s : State) : Apart s (examine s).1 := by
  unfold examine; dsimp only
  have h : Apart s (skipPositions s) := Apart.of rfl rfl
  generalize skipPositions s = x at h
  split
  · exact h.trans (apart_enterIdle _)
  · split
    · exact h
    · split
      · exact h.trans (Apart.of rfl rfl)
      · exact h.trans (apart_enterIdle _)

theorem apart_engineStep (s : State) : Apart s (engineStep s).1 := by
  unfold engineStep
  split
  · exact Apart.refl _
  · split
    · split
      · exact Apart.refl _
      · split
        · exact (apart_writeFilled _).trans (apart_afterFilled _)
        · exact Apart.of rfl rfl
    · split
      · exact Apart.of rfl rfl
      · split
        · exact apart_produce _
        · split
          · exact Apart.refl _
          · exact apart_examine _

theorem apart_engineLoop : ∀ (fuel : Nat) (s : State), Apart s (engineLoop fuel s)
  | 0, s => Apart.refl s
  | fuel + 1, s => by
    unfold engineLoop
    have h := apart_engineStep s
    split
    · next s1 e => rw [e] at h; exact h.trans (apart_engineLoop fuel s1)
    · next s1 e => rw [e] at h; exact h

/-- Outside DRAINING the engine's event keeps the session's state and the aligner. -/
theorem engineEvent_apart {s : State} (h : s.session.state ≠ .draining) :
    (engineEvent s).session.state = s.session.state ∧ (engineEvent s).aligner = s.aligner := by
  have a := apart_engineLoop 16 s h
  unfold engineEvent runEngine
  generalize engineLoop 16 s = x at a
  have hd : (sendDrainDone x).session.state = x.session.state ∧ (sendDrainDone x).aligner = x.aligner := by
    cases hf : x.session.drainDue with
    | none => unfold sendDrainDone; rw [hf]; exact ⟨rfl, rfl⟩
    | some f =>
      obtain ⟨-, -, -, -, -, -, ha, -, -, hs, -⟩ := sameBlocks_iff.mp (sendDrainDone_fields hf)
      exact ⟨by rw [hs], ha⟩
  rw [arbitrate_eq]; dsimp only; rw [hd.1, hd.2, a.1, a.2]; exact ⟨rfl, rfl⟩

end Sys2Proof.Laws
end

