-- ==== Sys2Proof/Laws/Effects.lean ====
section
/-! SUPPORT. Notices to both ports, changes of blocks, and what bad granules, damage, a rewind, DRAIN_DONE and a leaving
buffer leave. -/

namespace Sys2Proof.Laws

open Sys2Proof.Machine

/-- A notice changes one port unit only. -/
theorem notify_otherPort {p q : Port} (k pay) (s : State) (h : q ≠ p) : (notify p k pay s).port q = s.port q := by
  cases p <;> cases q <;> first | exact absurd rfl h | skip
  all_goals
    unfold notify enqueue missNotice interrupt
    dsimp only
    split
    · split <;> rfl
    · rfl

/-- A notice that stands between two states stands between any two with the same port units and slot bytes. -/
theorem notified_congr {s s' t t' : State} {p k pay} (h : Notified s t p k pay) (hs : s'.port p = s.port p)
    (ht : t'.port p = t.port p)
   (hb : noticeSlot k.code pay t' = noticeSlot k.code pay t) : Notified s' t' p k pay := by
  unfold Notified at *; rw [hs, ht, hb]; exact h

/-- A notice to both ports reaches each (R172, R173). -/
theorem notified_notifyBoth (k pay) (s : State) (p : Port) : Notified s (notifyBoth k pay s) p k pay := by
  unfold notifyBoth
  cases p
  · refine notified_congr (notified_notify .p0 k pay s) rfl (notify_otherPort _ _ _ (by simp)) ?_
    rw [slot_same (sameBlocks_notify .p1 k pay _)]
  · refine notified_congr (notified_notify .p1 k pay (notify .p0 k pay s)) (notify_otherPort _ _ _ (by simp)).symm rfl rfl

/-- The block changed. -/
theorem blockGet_modify_self (m : BlockMap) (b : Nat) (f) (h : b < 8192) : (m.modify b f).get b = f (m.get b) := by
  unfold BlockMap.modify BlockMap.get; simp only [h, dif_pos]
  exact Vector.getElem_set_self h

/-- Every other block. -/
theorem blockGet_modify_ne (m : BlockMap) (a b : Nat) (f) (h : a ≠ b) : (m.modify a f).get b = m.get b := by
  unfold BlockMap.modify
  split
  · unfold BlockMap.get; split
    · next h1 h2 => exact Vector.getElem_set_ne h1 h2 h
    · rfl
  · rfl

/-- Changing a block leaves the free list. -/
theorem blockModify_free (m : BlockMap) (b f) : (m.modify b f).free = m.free := by unfold BlockMap.modify; split <;> rfl

/-- Reports of bad granules keep the memory service, the engine and the count of corrected granules. -/
structure GranulesReported (s t : State) : Prop where
  mem : t.mem = s.mem
  eng : t.engine = s.engine
  cor : t.counters.memory.corrected = s.counters.memory.corrected
  wr : { t.writer with offered := false } = { s.writer with offered := false }

theorem GranulesReported.refl (s : State) : GranulesReported s s := ⟨rfl, rfl, rfl, rfl⟩

theorem GranulesReported.trans {s t u : State} (h : GranulesReported s t)
    (k : GranulesReported t u) : GranulesReported s u := ⟨k.1.trans h.1, k.2.trans h.2, k.3.trans h.3, k.4.trans h.4⟩

/-- What changes no more than catalog entries, offers and reclaim keeps these. -/
theorem Low.granulesReported {s t : State} (h : Low s t) : GranulesReported s t :=
  ⟨congrArg (fun s => s.mem) h.view, congrArg (fun s => s.engine) h.view, congrArg (fun s => s.counters.memory.corrected) h.view, congrArg (fun s => s.writer) h.view⟩

/-- Writers that agree apart from the offer flag. -/
theorem writer_of_offered {w v : Writer} (h : ({ w with offered := false } : Writer) = { v with offered :=
    false }) : w = { v with offered := w.offered } := by
  cases w; cases v; simp_all

/-- One bad granule. -/
theorem granulesReported_badGranule (s : State) (g : Nat) : GranulesReported s (badGranule s g) := by
  unfold badGranule
  exact (Low.granulesReported (low_suspectMark (granuleBlock g) s)).trans (GranulesReported.trans (t := countMemory (fun c => { c with uncorrectable := sat c.uncorrectable 1 }) (suspectMark (granuleBlock g) s)) ⟨rfl, rfl, rfl, rfl⟩
    (Low.granulesReported (Told.low (told_logFault _ _ _ _))))

/-- Several bad granules. -/
theorem granulesReported_fold : ∀ (l : List Nat) s, GranulesReported s (l.foldl badGranule s)
 | [], s => GranulesReported.refl s
 | a :: l, s => (granulesReported_badGranule s a).trans (granulesReported_fold l _)

/-- What a completed read burst does of itself (R146, R147). -/
theorem readEffects_fields (r : ReadResult) (s : State) : (readEffects r s).mem = s.mem ∧
    (readEffects r s).engine = s.engine ∧
    (readEffects r s).counters.memory.corrected = sat s.counters.memory.corrected r.corrected ∧
   (readEffects r s).writer = { s.writer with offered := (readEffects r s).writer.offered } := by
  have := granulesReported_fold r.bad (countMemory (fun c => { c with corrected := sat c.corrected r.corrected }) s)
  exact ⟨this.1, this.2, this.3, writer_of_offered this.4⟩

/-- Changes of entries keep these. -/
theorem granulesReported_ent {s t : State} (h : Ent s t) : GranulesReported s t := Low.granulesReported h.low

/-- Notes of damage keep the frame being read, the writes issued and the send position. -/
structure DamageNoted (s t : State) : Prop where
  mem : t.mem = s.mem
  fr : t.engine.progress.frame = s.engine.progress.frame
  iss : t.engine.issued = s.engine.issued
  sp : t.engine.sendPos = s.engine.sendPos
  cor : t.counters.memory.corrected = s.counters.memory.corrected
  wr : { t.writer with offered := false } = { s.writer with offered := false }

/-- One note. -/
theorem damageNoted_noteDamage (s : State) (g : Nat) : DamageNoted s (noteDamage s g) := by
  have k := granulesReported_ent (ent_damageEntry s.engine.sendPos s.catalog.epoch s)
  unfold noteDamage; dsimp only
  split
  · exact ⟨k.mem, by rw [k.eng], by rw [k.eng], by rw [k.eng], k.cor, k.wr⟩
  · unfold countArchive setEngine; refine ⟨k.mem, ?_, ?_, ?_, k.cor, k.wr⟩ <;> simp [k.eng]

/-- Several notes. -/
theorem damageNoted_fold : ∀ (l : List Nat) s, DamageNoted s (l.foldl noteDamage s)
 | [], s => ⟨rfl, rfl, rfl, rfl, rfl, rfl⟩
 | a :: l, s => by
   have h := damageNoted_noteDamage s a; have k := damageNoted_fold l (noteDamage s a)
   exact ⟨k.1.trans h.1, k.2.trans h.2, k.3.trans h.3, k.4.trans h.4, k.5.trans h.5, k.6.trans h.6⟩

/-- The engine keeps the count of corrected granules and capture memory. -/
theorem eng_corrected {s t : State} (h : Eng s t) : t.counters.memory.corrected = s.counters.memory.corrected ∧
    t.mem.cells = s.mem.cells :=
  ⟨congrArg (fun s => s.counters.memory.corrected) h.view, congrArg (fun s => s.mem.cells) h.view⟩

/-- An offer of a block leaves the engine and the faults. -/
theorem offerBlock_engine (s : State) : (offerBlock s).engine = s.engine ∧
    (offerBlock s).faults = s.faults := by unfold offerBlock; split <;> exact ⟨rfl, rfl⟩

/-- An offer of an entry leaves the engine and the faults. -/
theorem offerEntry_engine (s : State) : (offerEntry s).engine = s.engine ∧
    (offerEntry s).faults = s.faults := by unfold offerEntry; split <;> exact ⟨rfl, rfl⟩

/-- Dropping the claim changes nothing else of the engine. -/
theorem dropClaim_engine (s : State) : (dropClaim s).engine = { s.engine with claim := none } ∧
    (dropClaim s).faults = s.faults := by
  unfold dropClaim
  split
  · next h => exact ⟨by rw [← h], rfl⟩
  · dsimp only
    split
    · exact ⟨by rw [(offerEntry_engine _).1, (offerBlock_engine _).1]; rfl, by rw [(offerEntry_engine _).2, (offerBlock_engine _).2]; rfl⟩
    · exact ⟨by rw [(offerBlock_engine _).1]; rfl, by rw [(offerBlock_engine _).2]; rfl⟩

/-- RESUMED_ARCHIVE requests leave the engine. -/
theorem resumeEntries_engine : ∀ (l : List (Nat × Bool)) (s : State), (l.foldl
    (fun s a => if a.2 then resumeEntry a.1 s else s) s).engine = s.engine ∧ (l.foldl (fun s a => if a.2 then resumeEntry a.1 s else s) s).faults = s.faults
 | [], s => ⟨rfl, rfl⟩
 | a :: l, s => by
   rw [List.foldl_cons, (resumeEntries_engine l _).1, (resumeEntries_engine l _).2]
   split <;> exact ⟨rfl, rfl⟩

/-- With no failed write to log, nothing is logged (R89). -/
theorem logFailedWrite_none {s : State} (h : s.engine.failed = none) : logFailedWrite s = s := by
  unfold logFailedWrite; rw [h]

/-- The logging of a failed write changes the port units, counters and fault records only, but for its mark in the
engine (R89). -/
theorem logFailedWrite_blocks (s : State) :
    SameBlocks (setEngine (fun g => { g with failed := none }) s) (logFailedWrite s) := by
  unfold logFailedWrite
  split
  · next h =>
    have : setEngine (fun g => { g with failed := none }) s = s := by
      show ({ s with engine := { s.engine with failed := none } } : State) = s
      have : ({ s.engine with failed := none } : Engine) = s.engine := by rw [← h]
      rw [this]
    rw [this]; exact sameBlocks_refl s
  · exact sameBlocks_trans (sameBlocks_logFault _ _ _ _) (sameBlocks_iff.mpr ⟨rfl, rfl, rfl, rfl, rfl, rfl, rfl, rfl, rfl, rfl, rfl, rfl, rfl⟩)

/-- The engine after its entries have gone back (R86). -/
theorem rewindEntries_engine (c : Bool) (s : State) : (rewindEntries c s).engine = { s.engine with
      claim := none, sendPos := s.engine.cursor, progress := Progress.clear, awaiting := [], flush := none
      closed := none } ∧
    (rewindEntries c s).faults = s.faults := by
  unfold rewindEntries; dsimp only
  have h := resumeEntries_engine s.engine.unfinished (dropClaim s)
  rw [(dropClaim_engine s).1, (dropClaim_engine s).2] at h
  generalize List.foldl _ (dropClaim s) s.engine.unfinished = x at h
  split
  · show ({ x.engine with sendPos := _, progress := _, awaiting := _, flush := _, closed := _ } : Engine) = _ ∧ x.faults = _
    simp only [countArchive, h.1, h.2]; exact ⟨trivial, trivial⟩
  · simp only [h.1, h.2]; exact ⟨trivial, trivial⟩

/-- The engine after a rewind (R86, R89). -/
theorem rewind_engine (c : Bool) (s : State) : (rewind c s).engine = { s.engine with
      claim := none, sendPos := s.engine.cursor, progress := Progress.clear, awaiting := [], flush := none
      closed := none, failed := none } ∧
    (rewind c s).faults = (logFailedWrite s).faults := by
  unfold rewind
  rw [(rewindEntries_engine c _).1, (rewindEntries_engine c _).2, (sameBlocks_iff.mp (logFailedWrite_blocks s)).2.2.2.2.1]
  exact ⟨rfl, rfl⟩

/-- A rewind only withdraws the engine's burst from the memory service (R86, R141). -/
theorem rewind_mem (c : Bool) (s : State) : (rewind c s).mem = withdrawArchive s.mem := by
  have drop : ∀ x : State, (dropClaim x).mem = x.mem := by
    intro x
    unfold dropClaim offerBlock offerEntry
    split
    · rfl
    · dsimp only; split_ifs <;> rfl
  have resume : ∀ (l : List (Nat × Bool)) (x : State),
      (l.foldl (fun s a => if a.2 then resumeEntry a.1 s else s) x).mem = x.mem := by
    intro l
    induction l with
    | nil => intro x; rfl
    | cons a l ih => intro x; rw [List.foldl_cons, ih]; split <;> rfl
  have log : (logFailedWrite s).mem = s.mem := (sameBlocks_iff.mp (logFailedWrite_blocks s)).2.2.2.2.2.2.2.2.1
  unfold rewind rewindEntries
  dsimp only
  generalize hx : List.foldl _ (dropClaim (logFailedWrite s)) _ = x
  have e : x.mem = s.mem := by rw [← hx, resume, drop, log]
  split
  · show withdrawArchive (countArchive _ x).mem = _; rw [← e]; rfl
  · rw [e]

/-- A DRAIN_DONE that is due reaches every port of the drain set (R163). -/
theorem notified_sendDrainDone {s : State} {f : DrainFlags} (h : s.session.drainDue = some f) :
    (s.session.drain0 = true → Notified s (sendDrainDone s) .p0 .drainDone (drainPayload f s)) ∧
      (s.session.drain1 = true → Notified s (sendDrainDone s) .p1 .drainDone (drainPayload f s)) := by
  unfold sendDrainDone; rw [h]; dsimp only
  constructor
  · intro hd
    rw [hd]; simp only [if_true]
    have hn := notified_notify .p0 .drainDone (drainPayload f s) s
    generalize notify .p0 .drainDone (drainPayload f s) s = u at hn
    refine notified_congr hn rfl ?_ ?_
    · show State.port (if s.session.drain1 = true then _ else _) .p0 = _
      split
      · exact notify_otherPort _ _ _ (by simp)
      · rfl
    · unfold noticeSlot entrySlot
      show _ = _
      by_cases h1 : s.session.drain1 = true
      · obtain ⟨hc, -, -, -, -, -, -, -, -, hs, -⟩ :=
          sameBlocks_iff.mp (sameBlocks_notify .p1 .drainDone (drainPayload f s) u)
        rw [h1]; simp only [if_true, hc, hs]
      · simp only [h1]; rfl
  · intro hd
    rw [hd]; simp only [if_true]
    generalize hu : (if s.session.drain0 = true then notify .p0 .drainDone (drainPayload f s) s else s) = u
    refine notified_congr (notified_notify .p1 .drainDone (drainPayload f s) u) ?_ rfl rfl
    rw [← hu]; split
    · exact (notify_otherPort _ _ _ (by simp)).symm
    · rfl

/-- DRAIN_DONE leaves the engine. -/
theorem sendDrainDone_engine (s : State) : (sendDrainDone s).engine = s.engine ∧
    (sendDrainDone s).faults = s.faults := by
  unfold sendDrainDone
  split
  · exact ⟨rfl, rfl⟩
  · dsimp only
    have h : ∀ p k pay s, (notify p k pay s).engine = s.engine ∧ (notify p k pay s).faults = s.faults :=
      fun p k pay s => ⟨(sameBlocks_iff.mp (sameBlocks_notify p k pay s)).2.2.2.2.1, notify_faults p k pay s⟩
    split <;> split <;> simp [h]

/-- A buffer that leaves the list changes no more of the engine than the BUFFERS_LOW flag (R73). -/
theorem bufferLeft_engine (n : Nat) (s : State) : (bufferLeft n s).engine = { s.engine with lowArmed :=
    (bufferLeft n s).engine.lowArmed } ∧ (bufferLeft n s).faults = s.faults := by
  have h : ∀ p k pay s, (notify p k pay s).engine = s.engine ∧ (notify p k pay s).faults = s.faults :=
      fun p k pay s => ⟨(sameBlocks_iff.mp (sameBlocks_notify p k pay s)).2.2.2.2.1, notify_faults p k pay s⟩
  unfold bufferLeft; dsimp only
  split
  · unfold onBound; split <;> simp [setEngine, h]
  · simp [setEngine]

end Sys2Proof.Laws
end

