-- ==== Sys2Proof/Laws/Discard.lean ====
section
/-! SUPPORT. What DISCARD does to the catalog (R158): which entries it converts, and that the FIRM holds, the engine and
the other entries stay. -/

namespace Sys2Proof.Laws

open Sys2Proof.Machine

/-- The FIRM coverage, the engine and the catalog are kept. -/
structure FirmKept (s t : State) : Prop where
  firm : ∀ n, t.firmHeld n = s.firmHeld n
  engine : t.engine = s.engine
  catalog : t.catalog = s.catalog

/-- Nothing changed. -/
theorem FirmKept.refl (s : State) : FirmKept s s := ⟨fun _ => rfl, rfl, rfl⟩

theorem FirmKept.trans {s t u : State} (h : FirmKept s t) (k : FirmKept t u) : FirmKept s u :=
  ⟨fun n => (k.firm n).trans (h.firm n), k.engine.trans h.engine, k.catalog.trans h.catalog⟩

/-- By the hold banks, the engine and the catalog. -/
theorem firmKept_of {s t : State} (h0 : t.bank0 = s.bank0) (h1 : t.bank1 = s.bank1) (he : t.engine = s.engine)
    (hc : t.catalog = s.catalog) : FirmKept s t := ⟨fun n => by unfold State.firmHeld; rw [h0, h1], he, hc⟩

/-- By what the reports leave. -/
theorem firmKept_same {s t : State} (h : SameBlocks s t) : FirmKept s t := by
  obtain ⟨hc, -, h0, h1, he, -⟩ := sameBlocks_iff.mp h
  exact firmKept_of h0 h1 he hc

/-- An offer tells the writer only. -/
theorem firmKept_offerBlock (s : State) : FirmKept s (offerBlock s) := by
  unfold offerBlock; split <;> exact firmKept_of rfl rfl rfl rfl

theorem firmKept_offerEntry (s : State) : FirmKept s (offerEntry s) := by
  unfold offerEntry; split <;> exact firmKept_of rfl rfl rfl rfl

/-- Freeing a slot that holds no FIRM hold leaves the FIRM coverage. -/
theorem covered_setSlot (b : HoldBank) (i : Fin 16) (h : Hold) (hh : b.hold i = some h) (hk : h.kind = .yielding)
    (n : Nat) :
    (b.setSlot i none).covered (fun h => h.kind = .firm) n = b.covered (fun h => h.kind = .firm) n := by
  unfold HoldBank.covered
  have e : ∀ j ∈ slots16, ((b.setSlot i none).hold j).any (fun h => decide (h.kind = .firm) && h.covers n) =
      (b.hold j).any (fun h => decide (h.kind = .firm) && h.covers n) := by
    intro j _
    by_cases hj : j = i
    · subst hj
      rw [hh]
      have : (b.setSlot j none).hold j = none := by
        unfold HoldBank.setSlot HoldBank.hold; exact Vector.getElem_set_self j.isLt
      rw [this]; simp [hk]
    · have : (b.setSlot i none).hold j = b.hold j := by
        unfold HoldBank.setSlot HoldBank.hold
        exact Vector.getElem_set_ne i.isLt j.isLt (fun h => hj (Fin.ext h.symm))
      rw [this]
  rw [Bool.eq_iff_iff, List.any_eq_true, List.any_eq_true]
  constructor
  · rintro ⟨j, hm, hj⟩; exact ⟨j, hm, by rw [← e j hm]; exact hj⟩
  · rintro ⟨j, hm, hj⟩; exact ⟨j, hm, by rw [e j hm]; exact hj⟩

/-- The end of a YIELDING hold (R46). -/
theorem firmKept_freeHold (p : Port) (i : Fin 16) (s : State) (h : Hold) (hh : (s.bank p).hold i = some h)
    (hk : h.kind = .yielding) : FirmKept s (freeHold p i s) := by
  have h1 : FirmKept s (s.setBank p ((s.bank p).setSlot i none)) := by
    cases p
    · refine ⟨fun n => ?_, rfl, rfl⟩
      show (_ || _) = (_ || _)
      rw [show (s.setBank .p0 ((s.bank .p0).setSlot i none)).bank0 = (s.bank0).setSlot i none from rfl,
        covered_setSlot s.bank0 i h hh hk n]; rfl
    · refine ⟨fun n => ?_, rfl, rfl⟩
      show (_ || _) = (_ || _)
      rw [show (s.setBank .p1 ((s.bank .p1).setSlot i none)).bank1 = (s.bank1).setSlot i none from rfl,
        covered_setSlot s.bank1 i h hh hk n]; rfl
  unfold freeHold; rw [hh]; dsimp only
  split
  · exact h1.trans ((firmKept_offerBlock _).trans (firmKept_offerEntry _))
  · exact h1.trans (firmKept_offerBlock _)

/-- A revocation of one slot (R54). -/
theorem firmKept_revokeSlot (p : Port) (n : Nat) (acc : Nat × State) (i : Fin 16) :
    FirmKept acc.2 (revokeSlot p n acc i).2 := by
  unfold revokeSlot
  split
  · exact FirmKept.refl _
  · next h hh =>
    split
    · next hc =>
      have hk : h.kind = .yielding := by simp at hc; exact hc.1
      refine (firmKept_freeHold p i acc.2 h hh hk).trans (FirmKept.trans ?_ (firmKept_same (sameBlocks_notify _ _ _ _)))
      exact firmKept_of rfl rfl rfl rfl
    · exact FirmKept.refl _

/-- A revocation request (R54). -/
theorem firmKept_revokeHolds (n : Nat) (s : State) : FirmKept s (revokeHolds n s).2 := by
  have fold : ∀ (p : Port) (l : List (Fin 16)) (acc : Nat × State),
      FirmKept acc.2 (l.foldl (revokeSlot p n) acc).2 := by
    intro p l
    induction l with
    | nil => intro acc; exact FirmKept.refl _
    | cons i l ih => intro acc; rw [List.foldl_cons]; exact (firmKept_revokeSlot p n acc i).trans (ih _)
  exact (fold .p0 slots16 (0, s)).trans (fold .p1 slots16 _)

/-- The return of a block (R33, R41). -/
theorem firmKept_returnBlock (b : Nat) (s : State) : FirmKept s (returnBlock b s) := by
  unfold returnBlock
  split
  · unfold retireBlock
    dsimp only
    generalize hx : countMemory (fun c => { c with blocksRetired := sat c.blocksRetired 1 }) _ = x
    have h : FirmKept s x := by rw [← hx]; exact firmKept_of rfl rfl rfl rfl
    exact h.trans (firmKept_same (sameBlocks_logFault _ _ _ _))
  · dsimp only
    generalize hx : ({ modifyBlock b _ s with blocks := _ } : State) = x
    have h : FirmKept s x := by rw [← hx]; exact firmKept_of rfl rfl rfl rfl
    exact h.trans (firmKept_offerBlock x)

/-- The return of a chain. -/
theorem firmKept_returnChain (bs : List Nat) : ∀ s : State, FirmKept s (returnChain bs s) := by
  unfold returnChain
  induction bs with
  | nil => intro s; exact FirmKept.refl s
  | cons b bs ih => intro s; rw [List.foldl_cons]; exact (firmKept_returnBlock b s).trans (ih _)

/-- What DISCARD makes of an entry it converts (R158). -/
def lostEntry (e : Entry) : Entry := { e.mapData DataFields.dropBlocks with state := .lost }

/-- A loss leaves holds and engine; the entry is LOST with no blocks (R16). -/
theorem loseEntry_fields (n : Nat) (s : State) : (∀ m, (loseEntry n s).firmHeld m = s.firmHeld m) ∧
    (loseEntry n s).engine = s.engine ∧
    (loseEntry n s).catalog.entries = s.catalog.entries.map (fun e => if e.number = n then lostEntry e else e) := by
  have hm : ∀ (x : State), (updateEntry n (fun e => { e with state := .lost })
      (updateEntry n (Entry.mapData DataFields.dropBlocks) x)).catalog.entries =
      x.catalog.entries.map (fun e => if e.number = n then lostEntry e else e) := by
    intro x
    show (x.catalog.entries.map _).map _ = _
    rw [List.map_map]
    apply List.map_congr_left
    intro e _
    by_cases h : e.number = n
    · simp [Function.comp, h, lostEntry]
    · simp [Function.comp, h]
  unfold loseEntry setEntryState
  dsimp only
  have hc : ∀ f (x : State), (∀ m, (countCatalog f x).firmHeld m = x.firmHeld m) ∧
      (countCatalog f x).engine = x.engine ∧ (countCatalog f x).catalog = x.catalog := by
    intro f x; unfold countCatalog; split <;> exact ⟨fun _ => rfl, rfl, rfl⟩
  rw [(hc _ _).2.1, (hc _ _).2.2]
  simp only [(hc _ _).1]
  split
  · have k := firmKept_offerEntry (updateEntry n (fun e => { e with state := .lost })
      (updateEntry n (Entry.mapData DataFields.dropBlocks) s))
    exact ⟨fun m => k.firm m, k.engine, by rw [k.catalog]; exact hm s⟩
  · exact ⟨fun _ => rfl, rfl, hm s⟩

/-- The numbers of a range are distinct. -/
theorem nodup_natsFrom : ∀ n a : Nat, (natsFrom a n).Nodup
  | 0, _ => List.nodup_nil
  | n + 1, a => by
    refine List.nodup_cons.mpr ⟨fun h => ?_, nodup_natsFrom n (a + 1)⟩
    have := mem_natsFrom.mp h
    omega

/-- The numbers of a catalog's entries are distinct (R4). -/
theorem numbers_nodup {c : Catalog} (h : c.Numbered) : (c.entries.map (fun e => e.number)).Nodup := by
  rw [h.consecutive]; exact nodup_natsFrom _ _

/-- DISCARD converts the convertible entries and no other (R158). -/
theorem discardAll_entries (s : State) (hn : (s.catalog.entries.map (fun e => e.number)).Nodup) :
    (discardAll s).1 = (s.catalog.entries.filter s.convertible).length ∧
    (discardAll s).2.catalog.entries = s.catalog.entries.map (fun e => if s.convertible e then lostEntry e else e) := by
  have fold : ∀ (l done : List Entry) (acc : Nat × State),
      acc.2.catalog.entries = done ++ l → (∀ n, acc.2.firmHeld n = s.firmHeld n) → acc.2.engine = s.engine →
      ((done ++ l).map (fun e => e.number)).Nodup →
      (l.foldl convertEntry acc).1 = acc.1 + (l.filter s.convertible).length ∧
      (l.foldl convertEntry acc).2.catalog.entries =
        done ++ l.map (fun e => if s.convertible e then lostEntry e else e) := by
    intro l
    induction l with
    | nil => intro done acc h1 _ _ _; exact ⟨by simp, by simpa using h1⟩
    | cons e l ih =>
      intro done acc h1 h2 h3 h4
      rw [List.foldl_cons]
      have hcv : acc.2.convertible e = s.convertible e := by unfold State.convertible; rw [h2, h3]
      have lostNum : (lostEntry e).number = e.number := by unfold lostEntry Entry.mapData; split <;> rfl
      cases hc : s.convertible e with
      | false =>
        have he : convertEntry acc e = acc := by unfold convertEntry; rw [hcv, hc]; rfl
        have := ih (done ++ [e]) acc (by simpa using h1) h2 h3 (by simpa using h4)
        rw [he]
        refine ⟨by simpa [hc] using this.1, by simpa [hc] using this.2⟩
      | true =>
        have k1 := firmKept_revokeHolds e.number acc.2
        have k2 := loseEntry_fields e.number (revokeHolds e.number acc.2).2
        have k3 := firmKept_returnChain
          ((revokeHolds e.number acc.2).2.chainOf (e.data?.bind (fun d => d.firstBlock)))
          (loseEntry e.number (revokeHolds e.number acc.2).2)
        have he : convertEntry acc e = (acc.1 + 1,
            returnChain ((revokeHolds e.number acc.2).2.chainOf (e.data?.bind (fun d => d.firstBlock)))
              (loseEntry e.number (revokeHolds e.number acc.2).2)) := by
          unfold convertEntry; rw [hcv, hc]; rfl
        have hent : (convertEntry acc e).2.catalog.entries = (done ++ [lostEntry e]) ++ l := by
          rw [he]; dsimp only; rw [k3.catalog, k2.2.2, k1.catalog, h1]
          have hd : ∀ x ∈ done ++ l, x.number ≠ e.number := by
            intro x hx hxe
            rw [List.map_append, List.map_cons, List.nodup_append] at h4
            rcases List.mem_append.mp hx with hx | hx
            · exact h4.2.2 x.number (List.mem_map_of_mem hx) e.number (by simp) hxe
            · have := (List.nodup_cons.mp h4.2.1).1
              exact this (hxe ▸ List.mem_map_of_mem hx)
          have keep : ∀ xs : List Entry, (∀ x ∈ xs, x.number ≠ e.number) →
              xs.map (fun x => if x.number = e.number then lostEntry x else x) = xs := by
            intro xs hxs
            conv_rhs => rw [← List.map_id xs]
            apply List.map_congr_left; intro x hx; simp [hxs x hx]
          rw [List.map_append, List.map_cons, keep done (fun x hx => hd x (by simp [hx])),
            keep l (fun x hx => hd x (by simp [hx]))]
          simp
        have := ih (done ++ [lostEntry e]) (convertEntry acc e) hent
          (fun n => by rw [he]; dsimp only; rw [k3.firm, k2.1, k1.firm, h2])
          (by rw [he]; dsimp only; rw [k3.engine, k2.2.1, k1.engine, h3]) (by simpa [lostNum] using h4)
        refine ⟨?_, by simpa [hc] using this.2⟩
        rw [this.1, he]; simp [hc]; omega
  have := fold s.catalog.entries [] (0, s) rfl (fun _ => rfl) rfl (by simpa using hn)
  exact ⟨by simpa [discardAll] using this.1, by simpa [discardAll] using this.2⟩

end Sys2Proof.Laws
end

