-- ==== Sys2Proof/Laws/Windows.lean ====
section
/-! SUPPORT. Register errors and link output, the windows that answer an address, the end of a read and the end of a hold. -/

namespace Sys2Proof.Laws

open Sys2Proof.Machine

/-- What entries and notices leave of a port unit. -/
theorem told_port {s t : State} (h : Told s t) (p : Port) : (t.port p).apartFromNotices =
    (s.port p).apartFromNotices := (h.ports p).rest

/-- An aperture transaction within its limits. -/
theorem transaction_wellFormed (a n : Nat) (h1 : a < 68719476736) (h2 : 1 ≤ n) (h3 : n ≤ 256) :
    (apertureAddress a && linkLength n) = true := by
  simp only [apertureAddress, linkLength, Bool.and_eq_true, decide_eq_true_eq]
  exact ⟨h1, h2, h3⟩

/-- Link output joins the link. -/
theorem emit_port (p : Port) (e) (s : State) : (emit p e s).port p = { s.port p with link :=
    (s.port p).link ++ [e] } := by unfold emit; simp

/-- Link output leaves the faults. -/
theorem emit_faults (p : Port) (e) (s : State) : (emit p e s).faults = s.faults := by unfold emit; simp

/-- Link output leaves the counters. -/
theorem emit_counters (p : Port) (e) (s : State) : (emit p e s).counters = s.counters := by unfold emit; simp

/-- A fault report counts nothing for a port but notices missed. -/
theorem logFault_portCounters (u k d) (s : State) (p : Port) : {
    (logFault u k d s).counters.port p with noticesMissed := 0 } = ({ s.counters.port p with noticesMissed :=
    0 } : PortCounters) := by
  have v := (told_logFault u k d s).view
  cases p
  · exact congrArg (fun s => s.counters.port0) v
  · exact congrArg (fun s => s.counters.port1) v

/-- Port units kept, by their names. -/
theorem portKept_of_told {s t : State} (h : Told s t) {p : Port} {u v : PortUnit} (hp : s.port p = u)
    (hv : t.port p = v) : PortKept u v := by
  rw [← hp, ← hv]; exact h.ports p

/-- Link output keeps a port unit. -/
theorem portKept_emit {p : Port} {e} {u : PortUnit} {s : State} (h : PortKept u (s.port p)) : PortKept u
    ((emit p e s).port p) :=
  portKept_trans h ((told_emit p e s).ports p)

/-- Link output keeps any port unit. -/
theorem portKept_emit_any {p q : Port} {e} {u : PortUnit} {s : State} (h : PortKept u (s.port q)) : PortKept u
    ((emit p e s).port q) :=
  portKept_trans h ((told_emit p e s).ports q)

/-- A flag set, an event counted and a fault logged, as for every aperture and register error (R59, R60, R65, R66, R169). -/
theorem flagCountLog (p : Port) (fl : PortUnit → PortUnit) (cf : PortCounters → PortCounters) (u k d) (s : State) :
    (((logFault u k d (countPort p cf (modifyPort p fl s))).port p).apartFromNotices = (fl (s.port p)).apartFromNotices) ∧
    ({ (logFault u k d (countPort p cf (modifyPort p fl s))).counters.port p with noticesMissed := 0 } = ({ cf (s.counters.port p) with noticesMissed := 0 } : PortCounters)) ∧
    FaultReported s (logFault u k d (countPort p cf (modifyPort p fl s))) u k d ∧
    SameBlocks s (logFault u k d (countPort p cf (modifyPort p fl s))) ∧
    (logFault u k d (countPort p cf (modifyPort p fl s))).apartFromNotices = (countPort p cf s).apartFromNotices ∧
    PortKept (fl (s.port p)) ((logFault u k d (countPort p cf (modifyPort p fl s))).port p) ∧
    PortKept (s.port p.other) ((logFault u k d (countPort p cf (modifyPort p fl s))).port p.other) := by
  have ht := told_logFault u k d (countPort p cf (modifyPort p fl s))
  refine ⟨?_, ?_, ?_, ?_, ?_, ?_, ?_⟩
  · have := told_port ht p
    rw [this]; simp
  · rw [logFault_portCounters]; cases p <;> rfl
  · refine faultReported_congr (faultReported_logFault u k d _) ?_ rfl; cases p <;> rfl
  · exact sameBlocks_trans (sameBlocks_trans (sameBlocks_modifyPort p _ _) (sameBlocks_countPort p _ _)) (sameBlocks_logFault _ _ _ _)
  · rw [ht.view]; cases p <;> rfl
  · have := ht.ports p; cases p <;> exact this
  · have := ht.ports p.other; cases p <;> exact this

/-- No window contains the address. -/
theorem answering_nil {s : State} {p a} (h : ∀ i h w, (s.bank p).hold i = some h → h.window = some w → ¬
    (w.base ≤ a ∧ a < w.base + w.size)) : (s.bank p).answering a = [] := by
  unfold HoldBank.answering
  rw [List.filter_eq_nil_iff]
  intro i _
  cases hh : (s.bank p).hold i with
  | none => simp
  | some x =>
    cases hw : x.window with
    | none => simp [hw]
    | some w => have := h i x w hh hw; simp [hw, Window.contains]; omega

/-- The end of a read changes the reads in flight and the bursts asked only. -/
theorem endRead_fields (p : Port) (id : Nat) (s : State) : (endRead p id s).port0 = s.port0 ∧
    (endRead p id s).port1 = s.port1 ∧ (endRead p id s).counters = s.counters ∧ (endRead p id s).faults = s.faults ∧
   (endRead p id s).mem.cells = s.mem.cells ∧ (endRead p id s).catalog = s.catalog ∧ (endRead p id s).blocks = s.blocks ∧ (endRead p id s).engine = s.engine ∧ (endRead p id s).writer = s.writer ∧
   (endRead p id s).bank p = { s.bank p with reads := (s.bank p).reads.filter (fun r => r.id ≠ id) } ∧ (endRead p id s).bank p.other = s.bank p.other := by
  cases p <;> exact ⟨rfl, rfl, rfl, rfl, rfl, rfl, rfl, rfl, rfl, rfl, rfl⟩

/-- A port unit from both. -/
theorem port_of {s t : State} (h0 : t.port0 = s.port0) (h1 : t.port1 = s.port1) (p : Port) : t.port p = s.port p :=
    by cases p <;> assumption

/-- A hold bank from both. -/
theorem bank_of {s t : State} (h0 : t.bank0 = s.bank0) (h1 : t.bank1 = s.bank1) (p : Port) : t.bank p = s.bank p :=
    by cases p <;> assumption

/-- A slot that answers has a window that contains the address. -/
theorem answering_mem {b : HoldBank} {a : Nat} {i : Fin 16} {h : Hold} {w : Window} (ha : i ∈ b.answering a)
    (hh : b.hold i = some h) (hw : h.window = some w) : w.base ≤ a ∧ a < w.base + w.size := by
  unfold HoldBank.answering at ha
  have := (List.mem_filter.mp ha).2
  simp [hh, hw, Window.contains] at this; exact this

/-- The arbiter leaves port units and holds. -/
theorem arbitrate_port (s : State) (p : Port) : (arbitrate s).port p = s.port p ∧ (arbitrate s).bank p = s.bank p := by
  rw [arbitrate_eq]; cases p <;> exact ⟨rfl, rfl⟩

/-- The arbiter leaves counters, catalog, blocks, faults and capture memory. -/
theorem arbitrate_rest (s : State) : (arbitrate s).counters = s.counters ∧ (arbitrate s).catalog = s.catalog ∧
    (arbitrate s).blocks = s.blocks ∧ (arbitrate s).faults = s.faults ∧ (arbitrate s).mem.cells = s.mem.cells := by
  have := (granted_arbitrate s).cells
  rw [arbitrate_eq]; exact ⟨rfl, rfl, rfl, rfl, this⟩

/-- An offer of a block changes the writer only. -/
theorem offerBlock_writer (s : State) : offerBlock s = { s with writer := (offerBlock s).writer } :=
    by unfold offerBlock; split <;> rfl

/-- An offer of an entry changes the writer only. -/
theorem offerEntry_writer (s : State) : offerEntry s = { s with writer := (offerEntry s).writer } :=
    by unfold offerEntry; split <;> rfl

/-- A hold that ends: the slot FREE, and a writer starved for a block offered one (R35, R46). -/
theorem freeHold_fields (p : Port) (i : Fin 16) (s : State) (h : Hold) (hh : (s.bank p).hold i = some h) :
   ∃ w, freeHold p i s = { s.setBank p ((s.bank p).setSlot i none) with writer := w } ∧ (s.writer.state = .starved → s.writer.waiting = some .takeBlock → w.offered = true) := by
  unfold freeHold; rw [hh]; simp only
  have ho : ∀ x : State, x.writer.state = .starved → x.writer.waiting = some .takeBlock → (offerBlock x).writer.offered = true := by
    intro x h1 h2; unfold offerBlock; rw [if_pos]; simp [h1, h2, WaitRequest.isBlock]
  have hE : ∀ x : State, x.writer.offered = true → (offerEntry x).writer.offered = true := by
    intro x h; unfold offerEntry; split <;> simp [h]
  have hB2 : ∀ x : State, offerEntry (offerBlock x) = { x with writer := (offerEntry (offerBlock x)).writer } := by
    intro x; unfold offerEntry offerBlock; split <;> split <;> rfl
  split
  · refine ⟨_, hB2 _, fun h1 h2 => hE _ (ho _ (by cases p <;> exact h1) (by cases p <;> exact h2))⟩
  · exact ⟨_, offerBlock_writer _, fun h1 h2 => ho _ (by cases p <;> exact h1) (by cases p <;> exact h2)⟩

/-- The slots after one has been set. -/
theorem setSlot_hold (b : HoldBank) (i j : Fin 16) (h : Option Hold) :
    (b.setSlot i h).hold j = if j = i then h else b.hold j := by
  unfold HoldBank.setSlot HoldBank.hold
  by_cases e : j = i
  · subst e; simp only [if_true]; exact Vector.getElem_set_self j.isLt
  · rw [if_neg e]; exact Vector.getElem_set_ne i.isLt j.isLt (fun x => e (Fin.ext x.symm))

/-- A notice leaves the HOLDS group. -/
theorem notify_holdCounters (p k pay) (s : State) : (notify p k pay s).counters.holds = s.counters.holds := by
  unfold notify; split
  · unfold enqueue; unfold interrupt; dsimp only; split <;> simp
  · unfold missNotice; cases p <;> rfl

/-- A fault report takes at most one slot of a port. -/
theorem logFault_free (u k d) (s : State) (p : Port) : (s.port p).free ≤ ((logFault u k d s).port p).free + 1 := by
  have hn : ∀ q pay s, (s.port p).free ≤ ((notify q .faultLogged pay s).port p).free + (if p = q then 1 else 0) := by
    intro q pay s
    by_cases h : p = q
    · subst h; rw [if_pos rfl]
      unfold notify; split
      · next hf =>
        unfold enqueue
        have hi : ∀ x : State, ((interrupt p x).port p).free = (x.port p).free := by
          intro x; unfold interrupt; dsimp only; split
          · rw [setPort_port]; rfl
          · rfl
        rw [hi, setPort_port]
        have := entries_lt (s.port p)
        have : (PortUnit.entries { s.port p with cplSlots := (s.port p).cplSlots.set (s.port p).cplTail.val (noticeSlot NoticeKind.faultLogged.code pay s) (s.port p).cplTail.isLt, cplTail := (s.port p).cplTail + 1 }) = (s.port p).entries + 1 := by
          have := entries_eq (s.port p)
          have hq := entries_eq ({ s.port p with cplSlots := (s.port p).cplSlots.set (s.port p).cplTail.val (noticeSlot NoticeKind.faultLogged.code pay s) (s.port p).cplTail.isLt, cplTail := (s.port p).cplTail + 1 })
          rw [hq]; simp only
          have h63 : (s.port p).entries < 63 := by unfold PortUnit.free at hf; omega
          have ha := (s.port p).cplTail.isLt; have hb := (s.port p).cplHead.isLt
          rw [Fin.val_add]; simp; omega
        unfold PortUnit.free at *; rw [this]; omega
      · unfold missNotice; cases p <;> exact Nat.le_add_right _ _
    · rw [notify_otherPort _ _ _ h, if_neg h]; omega
  unfold logFault; split
  · dsimp only; split
    · cases p <;> exact Nat.le_add_right _ _
    · unfold notifyBoth
      have h0 := fun pay x => hn .p0 pay x
      have h1 := fun pay x => hn .p1 pay x
      refine le_trans ?_ (Nat.add_le_add_right (le_of_eq rfl) 1)
      generalize hy : setFaultRecord u _ s = y
      have hyp : y.port p = s.port p := by rw [← hy]; cases p <;> rfl
      have a := h0 [⟨0, 1, u.idx.val⟩, ⟨1, 1, k.code⟩, ⟨8, 8, d⟩, ⟨16, 8, s.faults.newest⟩] y
      have b := h1 [⟨0, 1, u.idx.val⟩, ⟨1, 1, k.code⟩, ⟨8, 8, d⟩, ⟨16, 8, s.faults.newest⟩] (notify .p0 .faultLogged [⟨0, 1, u.idx.val⟩, ⟨1, 1, k.code⟩, ⟨8, 8, d⟩, ⟨16, 8, s.faults.newest⟩] y)
      rw [hyp] at a
      cases p <;> simp at a b <;> omega
  · omega

end Sys2Proof.Laws
end

