-- ==== Sys2Proof/Laws/Registers.lean ====
section
/-! SUPPORT. Register writes, the request slots, freed completion slots and a port reset. -/

namespace Sys2Proof.Laws

open Sys2Proof.Machine

/-- A bit of a register value. -/
theorem natBit_getLsbD (v : BitVec 32) (i : Nat) : natBit v.toNat i = v.getLsbD i := by
  unfold natBit
  rw [BitVec.getLsbD, Nat.testBit_eq_decide_div_mod_eq]

/-- Link output is within the engine relation. -/
theorem eng_emit (p e) (s : State) : Eng s (emit p e s) := Told.eng (told_emit p e s)

/-- The acknowledgement of a register write. -/
theorem eng_ackControl (p off) (s : State) : Eng s (ackControl p off s) := (eng_engineEvent s).trans (eng_emit p _ _)

/-- An interrupt message, when entries stand. -/
theorem told_interruptIfEntries (p : Port) (s : State) : Told s (interruptIfEntries p s) := by
  unfold interruptIfEntries; split
  · exact told_interrupt p s
  · exact Rel.refl s

/-- What a freed slot leads to, after the held completion. -/
theorem eng_slotsFreed (p : Port) (s : State) : Eng (releaseHeld p s) (slotsFreed p s) := by
  unfold slotsFreed
  dsimp only
  generalize releaseHeld p s = x
  split
  · next hc =>
    simp only [Bool.and_eq_true, decide_eq_true_eq] at hc
    have hb := boundFree_of hc.1.1 hc.1.2
    split
    · exact (eng_writeFilled hb).trans ((Told.eng (told_reportMissed p _)).trans ((eng_afterFilled _).trans (eng_sendDrainDone _)))
    · split
      · refine Rel.trans ?_ ((Told.eng (told_reportMissed p _)).trans ((eng_setEngine rfl rfl).trans (eng_bufferLeft _ _)))
        unfold writeErrorFilled
        refine rel_onBound (fun q hq => Told.eng (told_enqueue ?_ _))
        rw [hc.1.1] at hq; cases hq; exact hc.1.2
      · exact Told.eng (told_reportMissed p _)
  · exact Told.eng (told_reportMissed p _)

/-- An interrupt message changes one port unit only. -/
theorem interrupt_otherPort {p q : Port} (h : q ≠ p) (s : State) : (interrupt p s).port q = s.port q := by
  unfold interrupt; dsimp only; split
  · cases p <;> cases q <;> first | rfl | exact absurd rfl h
  · rfl

/-- No offset of the run is dead. -/
theorem no_deadOffset (off n : Nat) (h : ∀ o, off ≤ o → o < off + n → deadOffset o = false) :
    (natsFrom off n).any deadOffset = false := by
  rw [List.any_eq_false]; intro o ho; have := mem_natsFrom.mp ho; simp [h o this.1 this.2]

/-- A write outside the request slots writes no slot. -/
theorem writeSlots_outside (p : Port) : ∀ (bytes : List Byte) (off : Nat) (s : State), (∀ o, off ≤ o →
    o < off + bytes.length → inRequestSlots o = false) → writeSlots p off bytes s = s
  | [], _, _, _ => rfl
  | b :: bs, off, s, h => by
    unfold writeSlots
    rw [List.length_cons, natsFrom, List.zip_cons_cons, List.foldl_cons]
    rw [if_neg (by simp [h off (by omega) (by simp)])]
    exact writeSlots_outside p bs (off + 1) s (fun o h1 h2 => h o (by omega) (by simp only [List.length_cons]; omega))

/-- One byte of a request slot. -/
theorem writeSlotByte_at (u : PortUnit) (i : Fin 32) (k : Nat) (hk : k < 64) (v : Byte) :
   u.writeSlotByte (0x1000 + 64 * i.val + k) v = { u with reqSlots := u.reqSlots.set i.val ((u.reqSlots.get i).set k v) i.isLt } := by
  unfold PortUnit.writeSlotByte
  have h1 : (0x1000 + 64 * i.val + k - 0x1000) / 64 = i.val := by omega
  have h2 : (0x1000 + 64 * i.val + k - 0x1000) % 64 = k := by omega
  have h3 : Fin.ofNat 32 i.val = i := by ext; simp
  simp only [h1, h2, h3]

/-- A write inside one request slot. -/
theorem writeSlots_inside (p : Port) (i : Fin 32) : ∀ (bytes : List Byte) (k : Nat) (s : State) (old : List Byte),
    k + bytes.length ≤ 64 →
   (s.port p).reqSlots.get i = old → old.length = 64 →
   writeSlots p (0x1000 + 64 * i.val + k) bytes s = modifyPort p (fun u => { u with reqSlots := u.reqSlots.set i.val (old.take k ++ bytes ++ old.drop (k + bytes.length)) i.isLt }) s
  | [], k, s, old, h, ho, hl => by
    show s = _
    simp only [List.append_nil, List.length_nil, Nat.add_zero, List.take_append_drop]
    have : (s.port p).reqSlots.set i.val old i.isLt = (s.port p).reqSlots := by rw [← ho]; exact Vector.set_getElem_self i.isLt
    have e : ({ s.port p with reqSlots := (s.port p).reqSlots.set i.val old i.isLt } : PortUnit) = s.port p := by rw [this]
    show s = s.setPort p { s.port p with reqSlots := (s.port p).reqSlots.set i.val old i.isLt }
    rw [e]; cases p <;> rfl
  | b :: bs, k, s, old, h, ho, hl => by
    unfold writeSlots
    simp only [List.length_cons] at h
    rw [List.length_cons, natsFrom, List.zip_cons_cons, List.foldl_cons]
    rw [if_pos (by simp [inRequestSlots]; omega)]
    have ih := writeSlots_inside p i bs (k + 1) (modifyPort p (fun u => u.writeSlotByte (0x1000 + 64 * i.val + k) b) s) (old.set k b) (by omega) ?_ (by simp [hl])
    · refine Eq.trans ih ?_
      have hm : ∀ (f g : PortUnit → PortUnit), modifyPort p f (modifyPort p g s) = modifyPort p (fun u => f (g u)) s := by intro f g; cases p <;> rfl
      rw [hm]
      unfold modifyPort
      congr 1
      dsimp only
      rw [writeSlotByte_at _ _ _ (by omega), ho]
      simp only
      have e : List.take (k + 1) (old.set k b) ++ bs ++ List.drop (k + 1 + bs.length) (old.set k b) = List.take k old ++ b :: bs ++ List.drop (k + (bs.length + 1)) old := by
        rw [List.drop_set_of_lt (by omega), List.take_set]
        have : k < old.length := by omega
        rw [List.take_succ_eq_append_getElem this]
        rw [List.set_append_right _ _ (by simp)]
        have h1 : min k old.length = k := by omega
        have h2 : k + 1 + bs.length = k + (bs.length + 1) := by omega
        simp [h1, h2]
      simp only [e]
      simp
    · rw [modifyPort_port, writeSlotByte_at _ _ _ (by omega), ho]
      exact Vector.getElem_set_self i.isLt

/-- A field that is the whole write. -/
theorem fieldAt_whole (bytes : List Byte) (n : Nat) (h : bytes.length = n) : fieldAt bytes 0 n = leValue bytes := by
  unfold fieldAt; rw [List.drop_zero, List.take_of_length_le (by omega)]

/-- One slot at a port reset (R67). -/
theorem resetSlot_fields (p : Port) (s : State) (i : Fin 16) : (∃ b w c,
    resetSlot p s i = { s.setBank p b with writer := w, counters := c } ∧
    (∀ j, b.hold j = if j = i then none else (s.bank p).hold j) ∧ b.tagCounter = (s.bank p).tagCounter) := by
  unfold resetSlot
  cases h : (s.bank p).hold i with
  | none =>
    refine ⟨s.bank p, s.writer, s.counters, ?_, ?_, rfl⟩
    · cases p <;> rfl
    · intro j; split
      · next e => rw [e]; exact h
      · rfl
  | some x =>
    obtain ⟨w, e, _⟩ := freeHold_fields p i s x h
    rw [e]
    refine ⟨(s.bank p).setSlot i none, w, ?_, ?_, ?_, rfl⟩
    rotate_left
    · cases p <;> rfl
    · intro j; exact setSlot_hold _ _ _ _

/-- Several slots at a port reset. -/
theorem resetSlots_fields (p : Port) : ∀ (l : List (Fin 16)) (s : State), (∃ b w c, l.foldl
    (resetSlot p) s = { s.setBank p b with writer := w, counters := c } ∧ (∀ j, b.hold j = if j ∈ l then none else (s.bank p).hold j) ∧ b.tagCounter = (s.bank p).tagCounter)
  | [], s => ⟨s.bank p, s.writer, s.counters, by cases p <;> rfl, by simp, rfl⟩
  | i :: l, s => by
    obtain ⟨b, w, c, e, h1, h2⟩ := resetSlot_fields p s i
    obtain ⟨b', w', c', e', h1', h2'⟩ := resetSlots_fields p l (resetSlot p s i)
    refine ⟨b', w', c', ?_, ?_, ?_⟩
    · rw [List.foldl_cons, e', e]; cases p <;> rfl
    · intro j; rw [h1' j]
      have : (resetSlot p s i).bank p = b := by rw [e]; cases p <;> rfl
      rw [this, h1 j]
      by_cases hj : j = i <;> by_cases hl : j ∈ l <;> simp [hj, hl]
    · rw [h2']
      have : (resetSlot p s i).bank p = b := by rw [e]; cases p <;> rfl
      rw [this, h2]

/-- Every slot number is listed. -/
theorem mem_slots16 (j : Fin 16) : j ∈ slots16 := by revert j; decide

/-- The hold table at a port reset (R67). -/
theorem resetHolds_fields (p : Port) (s : State) : ∃ b w c m, resetHolds p s =
      { s.setBank p b with writer := w, counters := c, mem := m } ∧ (∀ j, b.hold j = none) ∧ b.tagCounter = (s.bank p).tagCounter ∧ b.reads = [] ∧
    m.cells = s.mem.cells := by
  unfold resetHolds; dsimp only
  obtain ⟨b, w, c, e, h1, h2⟩ := resetSlots_fields p slots16 s
  rw [e]
  refine ⟨{ b with reads := [] }, w, c, s.mem.setWindowAsk p [], ?_, ?_, h2, rfl, ?_⟩
  · cases p <;> rfl
  · intro j; have := h1 j; rw [if_pos (mem_slots16 j)] at this; exact this
  · cases p <;> rfl

/-- What the end of a binding leaves. -/
structure BeyondEngine (s t : State) : Prop where
  port0 : t.port0 = s.port0
  port1 : t.port1 = s.port1
  bank0 : t.bank0 = s.bank0
  bank1 : t.bank1 = s.bank1
  passed : t.passed = s.passed
  cells : t.mem.cells = s.mem.cells
  blocks : t.blocks = s.blocks
  intake : t.intake = s.intake

theorem BeyondEngine.refl (s : State) : BeyondEngine s s := ⟨rfl, rfl, rfl, rfl, rfl, rfl, rfl, rfl⟩

theorem BeyondEngine.trans {s t u : State} (h : BeyondEngine s t) (k : BeyondEngine t u) : BeyondEngine s u :=
    ⟨k.1.trans h.1, k.2.trans h.2, k.3.trans h.3, k.4.trans h.4, k.5.trans h.5, k.6.trans h.6, k.7.trans h.7, k.8.trans h.8⟩

theorem beyondEngine_offerBlock (s : State) : BeyondEngine s (offerBlock s) :=
    by unfold offerBlock; split <;> exact ⟨rfl, rfl, rfl, rfl, rfl, rfl, rfl, rfl⟩

theorem beyondEngine_offerEntry (s : State) : BeyondEngine s (offerEntry s) :=
    by unfold offerEntry; split <;> exact ⟨rfl, rfl, rfl, rfl, rfl, rfl, rfl, rfl⟩

theorem beyondEngine_dropClaim (s : State) : BeyondEngine s (dropClaim s) := by
  unfold dropClaim; split
  · exact BeyondEngine.refl s
  · dsimp only; split
    · exact BeyondEngine.trans (t := setEngine _ s) ⟨rfl, rfl, rfl, rfl, rfl, rfl, rfl, rfl⟩ ((beyondEngine_offerBlock _).trans (beyondEngine_offerEntry _))
    · exact BeyondEngine.trans (t := setEngine _ s) ⟨rfl, rfl, rfl, rfl, rfl, rfl, rfl, rfl⟩ (beyondEngine_offerBlock _)

theorem beyondEngine_resume : ∀ (l : List (Nat × Bool)) (s : State), BeyondEngine s (l.foldl
    (fun s a => if a.2 then resumeEntry a.1 s else s) s)
 | [], s => BeyondEngine.refl s
 | a :: l, s => by
   rw [List.foldl_cons]
   refine BeyondEngine.trans ?_ (beyondEngine_resume l _)
   by_cases h : a.2 = true
   · rw [if_pos h]; exact ⟨rfl, rfl, rfl, rfl, rfl, rfl, rfl, rfl⟩
   · rw [if_neg h]; exact BeyondEngine.refl s

/-- The entries started and not completed go back. -/
theorem beyondEngine_rewindEntries (c : Bool) (s : State) : BeyondEngine s (rewindEntries c s) := by
  unfold rewindEntries; dsimp only
  have h := (beyondEngine_dropClaim s).trans (beyondEngine_resume s.engine.unfinished (dropClaim s))
  generalize List.foldl _ (dropClaim s) s.engine.unfinished = x at h
  split <;> exact ⟨h.1, h.2, h.3, h.4, h.5, h.6, h.7, h.8⟩

/-- A rewind with no failed write to log. -/
theorem beyondEngine_rewind (c : Bool) {s : State} (h : s.engine.failed = none) : BeyondEngine s (rewind c s) := by
  unfold rewind; rw [logFailedWrite_none h]; exact beyondEngine_rewindEntries c s

/-- The end of a binding. -/
theorem beyondEngine_unbind (s : State) : BeyondEngine s (unbind s) ∧ (unbind s).engine.bound = none := by
  unfold unbind engineUnbound; split <;> exact ⟨⟨rfl, rfl, rfl, rfl, rfl, rfl, rfl, rfl⟩, rfl⟩

end Sys2Proof.Laws
end

