-- ==== Sys2Proof/Laws/Requests.lean ====
section
/-! SUPPORT. The answers to requests of each block: queries, holds, the archive binding, the aligner, and the retiring of blocks. -/

namespace Sys2Proof.Laws

open Sys2Proof.Machine

/-- A request answered at once, with nothing else done. -/
theorem answer_atOnce {s : State} {p code} {r : Passed} (h : Waits s p code r) (st d pay) :
   Replied s (answer r st d pay (s.without p code)) r st d pay ∧ SameBlocks (s.without p code) (answer r st d pay (s.without p code)) ∧ (answer r st d pay (s.without p code)).counters = s.counters ∧ (answer r st d pay (s.without p code)).faults = s.faults :=
  ⟨replied_answer h.live _ _ _ (fun q => without_port s p q code), sameBlocks_answer _ _ _ _ _, by simp; rfl, by simp; rfl⟩

/-- The holds without the request taken. -/
theorem without_bank (s : State) (p q code) : (s.without p code).bank q = s.bank q := by cases q <;> rfl

/-- The answers of QUERY_RECORD and QUERY_MARKS (R21). -/
theorem queryEntry_cases {s : State} {p code} {r : Passed} (h : Waits s p code r) (n : Nat) (f : Entry → List Field) :
   let t := queryEntry r n f (s.without p code)
   SameBlocks (s.without p code) t ∧ t.counters = s.counters ∧
        t.faults = s.faults ∧
        ((n = 0 ∨ n = 4294967295) → Replied s t r .range 0 []) ∧
        (1 ≤ n → n < 4294967295 → n < s.catalog.head → Replied s t r .gone 0 []) ∧
        (1 ≤ n → n < 4294967295 → s.catalog.head ≤ n → s.catalog.tail < n → Replied s t r .range 0 []) ∧
        (∀ e, 1 ≤ n → n < 4294967295 → s.catalog.head ≤ n → n ≤ s.catalog.tail → s.catalog.find n = some e →
          Replied s t r .ok 0 (f e)) := by
  intro t
  have hc : (s.without p code).catalog = s.catalog := rfl
  have hq : ∀ st, queryStatus n s.catalog = st → st ≠ .ok → t = answer r st 0 [] (s.without p code) := by
    intro st h1 h2
    show queryEntry r n f (s.without p code) = _
    unfold queryEntry; rw [hc, h1]; cases st <;> first | rfl | exact absurd rfl h2
  have hg : ∃ st d pay, t = answer r st d pay (s.without p code) := by
    show ∃ st d pay, queryEntry r n f (s.without p code) = _
    unfold queryEntry; split <;> exact ⟨_, _, _, rfl⟩
  obtain ⟨st, d, pay, e⟩ := hg
  have hp := answer_atOnce h st d pay
  rw [← e] at hp
  refine ⟨hp.2.1, hp.2.2.1, hp.2.2.2, ?_, ?_, ?_, ?_⟩
  · intro h'; rw [hq .range (by unfold queryStatus; rw [if_pos (by simpa [Config.lastRecordNumber] using h')]) (by decide)]; exact (answer_atOnce h _ _ _).1
  · intro h1 h2 h3; rw [hq .gone (by unfold queryStatus; rw [if_neg (by simp [Config.lastRecordNumber]; omega), if_pos h3]) (by decide)]; exact (answer_atOnce h _ _ _).1
  · intro h1 h2 h3 h4; rw [hq .range (by unfold queryStatus; rw [if_neg (by simp [Config.lastRecordNumber]; omega), if_neg (by omega), if_pos h4]) (by decide)]; exact (answer_atOnce h _ _ _).1
  · intro e h1 h2 h3 h4 h5
    have : t = answer r .ok 0 (f e) (s.without p code) := by
      show queryEntry r n f (s.without p code) = _
      unfold queryEntry
      have : queryStatus n s.catalog = .ok := by unfold queryStatus; rw [if_neg (by simp [Config.lastRecordNumber]; omega), if_neg (by omega), if_neg (by omega)]
      rw [hc, this, h5]
    rw [this]; exact (answer_atOnce h _ _ _).1

/-- A request answered after changes to counters, faults and ports only. -/
theorem answer_sameBlocks {s u : State} {p code} {r : Passed} (h : Waits s p code r) (hu : ∀ q, u.port q = s.port q)
    (hs : SameBlocks (s.without p code) u) (st d pay) :
   Replied s (answer r st d pay u) r st d pay ∧ SameBlocks (s.without p code) (answer r st d pay u) :=
 ⟨replied_answer h.live _ _ _ hu, sameBlocks_trans hs (sameBlocks_answer _ _ _ _ _)⟩

/-- No slot is FREE. -/
theorem freeSlot_none {b : HoldBank} : b.freeSlot = none ↔ ∀ i, b.hold i ≠ none := by
  unfold HoldBank.freeSlot
  rw [List.find?_eq_none]
  constructor
  · intro h i hi; exact h i (mem_slots16 i) (by simp [hi])
  · intro h i _ hi; exact h i (by simpa using hi)

/-- The lowest FREE slot. -/
theorem freeSlot_some {b : HoldBank} {i : Fin 16} (h : b.hold i = none) (hl : ∀ j, j < i →
    b.hold j ≠ none) : b.freeSlot = some i := by
  unfold HoldBank.freeSlot
  cases hf : slots16.find? (fun i => (b.hold i).isNone) with
  | none => rw [List.find?_eq_none] at hf; exact absurd (by simp [h]) (hf i (mem_slots16 i))
  | some j =>
    obtain ⟨h1, as, bs, h2, h3⟩ := List.find?_eq_some_iff_append.mp hf
    congr 1
    by_contra hne
    rcases lt_or_gt_of_ne hne with hlt | hgt
    · exact hl j hlt (by simpa using h1)
    · have hi : i ∈ as := by
        have hp : slots16.Pairwise (· < ·) := by decide
        have hm := mem_slots16 i
        rw [h2] at hm hp
        rcases List.mem_append.mp hm with hm | hm
        · exact hm
        · rcases List.mem_cons.mp hm with hm | hm
          · exact absurd hm.symm hne
          · have := (List.pairwise_append.mp hp).2.1
            have := (List.pairwise_cons.mp this).1 i hm
            exact absurd hgt (by omega)
      have := h3 i hi
      simp [h] at this

/-- The legal placements (R47), spelled out. -/
theorem holdArgs_legal_iff (a : HoldArgs) : a.legal = true ↔ 1 ≤ a.first ∧ a.first ≤ a.last ∧ a.last ≤ 4294967294 ∧
    a.last < a.first + 256 ∧ a.kind ≤ 1 ∧
        ∀ w, a.window = some w → w.legal = true := by
  unfold HoldArgs.legal
  simp only [Bool.and_eq_true, decide_eq_true_eq, Config.holdSpan, recordNumber, Config.lastRecordNumber, Option.all_eq_true]
  constructor
  · rintro ⟨⟨⟨⟨⟨⟨a1, a2⟩, a3, a4⟩, a5⟩, a6⟩, a7⟩, a8⟩; exact ⟨a1, a5, of_decide_eq_true a4, of_decide_eq_true a6, a7, a8⟩
  · rintro ⟨a1, a2, a3, a4, a5, a6⟩; exact ⟨⟨⟨⟨⟨⟨a1, decide_eq_true (show a.first ≤ 4294967294 by omega)⟩, by omega, decide_eq_true a3⟩, a2⟩, decide_eq_true a4⟩, a5⟩, a6⟩

/-- A refused hold request. -/
theorem refuseHold_fields {s : State} {p} {code} {r : Passed} (h : Waits s p code r) (st) :
    let t := refuseHold r st (s.without p code)
    Replied s t r st 0 [] ∧ (∀ q, t.bank q = s.bank q) ∧
      t.counters.holds = { s.counters.holds with refused := sat s.counters.holds.refused 1 } ∧
      SameBlocks (s.without p code) t := by
  intro t
  refine ⟨replied_answer h.live _ _ _ (fun q => by cases q <;> rfl), ?_, ?_, sameBlocks_trans (t := countHolds (fun c => { c with refused := sat c.refused 1 }) (s.without p code)) rfl (sameBlocks_answer _ _ _ _ _)⟩
  · intro q; show (refuseHold r st (s.without p code)).bank q = _; unfold refuseHold; rw [answer_bank]; cases q <;> rfl
  · show (refuseHold r st (s.without p code)).counters.holds = _; unfold refuseHold; rw [answer_counters]; rfl

/-- A slot number above 15. -/
theorem named_range {b : HoldBank} {slot tag} (h : 15 < slot) : b.named slot tag = .error .range := by
  unfold HoldBank.named; rw [dif_neg (by omega)]

/-- A FREE slot, or another tag. -/
theorem named_unknown {b : HoldBank} {slot tag} {i : Fin 16} (hi : i.val = slot) (h : ∀ h, b.hold i = some h →
    h.tag ≠ tag) : b.named slot tag = .error .unknownHold := by
  subst hi
  unfold HoldBank.named; rw [dif_pos i.isLt]
  cases hh : b.hold i with
  | none => simp
  | some x => simp [h x hh]

/-- The hold named. -/
theorem named_ok {b : HoldBank} {slot tag} {i : Fin 16} {x : Hold} (hi : i.val = slot) (h : b.hold i = some x)
    (ht : x.tag = tag) : b.named slot tag = .ok (i, x) := by
  subst hi
  unfold HoldBank.named; rw [dif_pos i.isLt]; simp [h, ht]

/-- The arbiter leaves what a completion says. -/
theorem completionSlot_arbitrate (c : Completion) (s : State) : completionSlot c
    (arbitrate s) = completionSlot c s := by
  rw [arbitrate_eq]; rfl

/-- An answer stands through the arbiter. -/
theorem replied_arbitrate {s t : State} {r st d pay} (h : Replied s t r st d pay) : Replied s
    (arbitrate t) r st d pay := by
  obtain ⟨a, b, c, d, e⟩ := h
  refine ⟨?_, ?_, ?_, ?_, ?_⟩ <;> simp only [fun s q => (arbitrate_port s q).1, completionSlot_arbitrate] <;> assumption

/-- What the going back of the entries started sets and keeps of the engine (R86). -/
theorem rewindEntries_fields (c : Bool) (s : State) : (rewindEntries c s).engine.cursor = s.engine.cursor ∧
    (rewindEntries c s).engine.sendPos = s.engine.cursor ∧ (rewindEntries c s).engine.claim = none ∧
    (rewindEntries c s).engine.awaiting = [] ∧ (rewindEntries c s).session = s.session ∧
    (rewindEntries c s).engine.buffers = s.engine.buffers ∧ (rewindEntries c s).engine.issued = s.engine.issued := by
  have hd : (dropClaim s).engine.cursor = s.engine.cursor ∧ (dropClaim s).engine.claim = none ∧ (dropClaim s).session = s.session ∧ (dropClaim s).engine.buffers = s.engine.buffers ∧ (dropClaim s).engine.issued = s.engine.issued := by
    unfold dropClaim; cases hc : s.engine.claim with
    | none => simp [hc]
    | some n => dsimp only; unfold offerBlock offerEntry; split_ifs <;> simp
  have hf : ∀ (l : List (Nat × Bool)) (x : State), (l.foldl (fun s a => if a.2 then resumeEntry a.1 s else s) x).engine = x.engine ∧ (l.foldl (fun s a => if a.2 then resumeEntry a.1 s else s) x).session = x.session := by
    intro l; induction l with
    | nil => intro x; exact ⟨rfl, rfl⟩
    | cons a l ih => intro x; rw [List.foldl_cons]; refine ⟨(ih _).1.trans ?_, (ih _).2.trans ?_⟩ <;> (split <;> rfl)
  unfold rewindEntries; dsimp only
  have h2 := hf s.engine.unfinished (dropClaim s)
  generalize List.foldl _ (dropClaim s) s.engine.unfinished = x at h2
  split <;> simp [h2.1, h2.2, hd, countArchive]

/-- What a rewind sets and keeps of the engine (R86). -/
theorem rewind_fields (c : Bool) (s : State) : (rewind c s).engine.cursor = s.engine.cursor ∧
    (rewind c s).engine.sendPos = s.engine.cursor ∧ (rewind c s).engine.claim = none ∧
    (rewind c s).engine.awaiting = [] ∧ (rewind c s).session = s.session ∧
    (rewind c s).engine.buffers = s.engine.buffers ∧ (rewind c s).engine.issued = s.engine.issued := by
  have h := rewindEntries_fields c (logFailedWrite s)
  obtain ⟨-, -, -, -, he, -, -, -, -, hs, -⟩ := sameBlocks_iff.mp (logFailedWrite_blocks s)
  rw [he, hs] at h
  exact h

/-- Taking a request leaves the queues. -/
theorem queueKept_without (s : State) (p code) : (∀ q, QueueKept (s.port q) ((s.without p code).port q)) :=
    fun q => by cases q <;> exact queueKept_refl _

/-- An answer stands through the events that follow. -/
theorem answered_captureEvent {s u : State} {p code} {r : Passed} (h : Waits s p code r) (k : Cap
    (s.without p code) u) (st d pay) : Answered s (captureEvent (answer r st d pay u)) r st d pay := by
  refine answered_cap ?_ (cap_captureEvent _)
  have hq : ∀ q, QueueKept (s.port q) (u.port q) := fun q => by have := (k.ports q).queue; rw [without_port] at this; exact this
  exact answered_after hq (replied_answered (replied_answer h.live _ _ _ (fun q => rfl)))

/-- And capture memory is as it was. -/
theorem cells_captureEvent {s u : State} {p code} {r : Passed} (k : Cap (s.without p code) u) (st d pay) :
    (captureEvent (answer r st d pay u)).mem.cells = s.mem.cells := by
  rw [(sound_captureEvent _).cells, answer_mem, k.sound.cells]; rfl

/-- What the retiring of blocks leaves. -/
structure BlocksRetired (bs : List Nat) (s t : State) : Prop where
  catalog : t.catalog = s.catalog
  bank0 : t.bank0 = s.bank0
  bank1 : t.bank1 = s.bank1
  engine : t.engine = s.engine
  session : t.session = s.session
  mem : t.mem = s.mem
  intake : t.intake = s.intake
  writer : t.writer = s.writer
  cc : t.counters.intake = s.counters.intake ∧ t.counters.trigger = s.counters.trigger ∧ t.counters.catalog = s.counters.catalog ∧ t.counters.archive = s.counters.archive ∧ t.counters.holds = s.counters.holds
  ports : ∀ p, PortKept (s.port p) (t.port p)
  keep : ∀ b, b ∉ bs → t.blocks.get b = s.blocks.get b
  faulty : ∀ b, (s.blocks.get b).state = .faulty → (t.blocks.get b).state = .faulty

/-- The blocks after one has been changed. -/
theorem blockGet_modify (m : BlockMap) (b c : Nat) (f) : (m.modify b f).get c = if c = b ∧
    b < 8192 then f (m.get b) else m.get c := by
  unfold BlockMap.modify
  by_cases hb : b < 8192
  · rw [dif_pos hb]
    by_cases e : c = b
    · subst e; rw [if_pos ⟨rfl, hb⟩]; unfold BlockMap.get; rw [dif_pos hb, dif_pos hb]; exact Vector.getElem_set_self hb
    · rw [if_neg (fun h => e h.1)]; unfold BlockMap.get
      by_cases hc : c < 8192
      · rw [dif_pos hc, dif_pos hc]; exact Vector.getElem_set_ne hb hc (fun h => e h.symm)
      · rw [dif_neg hc, dif_neg hc]
  · rw [dif_neg hb, if_neg (fun h => hb h.2)]

/-- A notice leaves the counter groups. -/
theorem notify_groups (p k pay) (s : State) : (notify p k pay s).counters.intake = s.counters.intake ∧
    (notify p k pay s).counters.trigger = s.counters.trigger ∧
    (notify p k pay s).counters.catalog = s.counters.catalog ∧
    (notify p k pay s).counters.archive = s.counters.archive ∧
    (notify p k pay s).counters.holds = s.counters.holds := by
  unfold notify; split
  · unfold enqueue; unfold interrupt; dsimp only; split <;> simp
  · unfold missNotice; cases p <;> exact ⟨rfl, rfl, rfl, rfl, rfl⟩

/-- A fault report leaves the counter groups. -/
theorem logFault_groups (u k d) (s : State) : (logFault u k d s).counters.intake = s.counters.intake ∧
    (logFault u k d s).counters.trigger = s.counters.trigger ∧
    (logFault u k d s).counters.catalog = s.counters.catalog ∧
    (logFault u k d s).counters.archive = s.counters.archive ∧
    (logFault u k d s).counters.holds = s.counters.holds := by
  unfold logFault; split
  · dsimp only; split
    · exact ⟨rfl, rfl, rfl, rfl, rfl⟩
    · unfold notifyBoth
      refine ⟨?_, ?_, ?_, ?_, ?_⟩
      · rw [(notify_groups _ _ _ _).1, (notify_groups _ _ _ _).1]; rfl
      · rw [(notify_groups _ _ _ _).2.1, (notify_groups _ _ _ _).2.1]; rfl
      · rw [(notify_groups _ _ _ _).2.2.1, (notify_groups _ _ _ _).2.2.1]; rfl
      · rw [(notify_groups _ _ _ _).2.2.2.1, (notify_groups _ _ _ _).2.2.2.1]; rfl
      · rw [(notify_groups _ _ _ _).2.2.2.2, (notify_groups _ _ _ _).2.2.2.2]; rfl
  · exact ⟨rfl, rfl, rfl, rfl, rfl⟩

/-- One block. -/
theorem blocksRetired_one (b : Nat) (s : State) : BlocksRetired [b] s (retireBlock b s) := by
  unfold retireBlock; dsimp only
  generalize hx : countMemory (fun c => { c with blocksRetired := sat c.blocksRetired 1 }) _ = x
  have k := sameBlocks_iff.mp (sameBlocks_logFault .memory .blockRetired b x)
  have cc := logFault_groups .memory .blockRetired b x
  have hk := (told_logFault .memory .blockRetired b x).ports
  generalize logFault .memory .blockRetired b x = y at *
  obtain ⟨a1, a2, a3, a4, a5, a6, a7, a8, a9, a10, a11, a12, a13⟩ := k
  have xb : x.blocks.get = (s.blocks.modify b (fun _ => { state := .faulty, next := none, owner := none, held := 0, suspect := true })).get := by rw [← hx]; rfl
  have xp : ∀ q, x.port q = s.port q := fun q => by rw [← hx]; cases q <;> rfl
  refine ⟨by rw [a1, ← hx]; rfl, by rw [a3, ← hx]; rfl, by rw [a4, ← hx]; rfl, by rw [a5, ← hx]; rfl, by rw [a10, ← hx]; rfl, by rw [a9, ← hx]; rfl, by rw [a8, ← hx]; rfl, by rw [a6, ← hx]; rfl, ?_, ?_, ?_, ?_⟩
  · rw [cc.1, cc.2.1, cc.2.2.1, cc.2.2.2.1, cc.2.2.2.2, ← hx]; exact ⟨rfl, rfl, rfl, rfl, rfl⟩
  · intro q; have := hk q; rw [xp] at this; exact this
  · intro c hc; rw [a2, xb, blockGet_modify, if_neg]; rintro ⟨e, _⟩; exact hc (by simp [e])
  · intro c hc; rw [a2, xb, blockGet_modify]; split
    · rfl
    · exact hc

theorem BlocksRetired.refl (s : State) : BlocksRetired [] s s :=
    ⟨rfl, rfl, rfl, rfl, rfl, rfl, rfl, rfl, ⟨rfl, rfl, rfl, rfl, rfl⟩, fun _ => portKept_refl _, fun _ _ => rfl, fun _ h => h⟩

/-- Several blocks. -/
theorem blocksRetired_all : ∀ (bs : List Nat) (s : State), BlocksRetired bs s (bs.foldl (fun s b => retireBlock b s) s)
  | [], s => BlocksRetired.refl s
  | b :: bs, s => by
    rw [List.foldl_cons]
    have h := blocksRetired_one b s
    have k := blocksRetired_all bs (retireBlock b s)
    generalize List.foldl _ _ bs = t at k
    generalize retireBlock b s = u at h k
    refine ⟨k.1.trans h.1, k.2.trans h.2, k.3.trans h.3, k.4.trans h.4, k.5.trans h.5, k.6.trans h.6, k.7.trans h.7, k.8.trans h.8, ?_, fun p => portKept_trans (h.ports p) (k.ports p), ?_, fun b h' => k.faulty b (h.faulty b h')⟩
    · rw [k.cc.1, k.cc.2.1, k.cc.2.2.1, k.cc.2.2.2.1, k.cc.2.2.2.2]; exact h.cc
    · intro c hc; rw [k.keep c (fun x => hc (List.mem_cons_of_mem _ x)), h.keep c]; intro x; simp at x; exact hc (by simp [x])

/-- A block of the table. -/
theorem blockGet_lt {m : BlockMap} {b : Nat} (h : b < 8192) : m.get b = m.table[b] := by
  unfold BlockMap.get; rw [dif_pos h]; rfl

/-- The table after a part reset (R43). -/
theorem rebuild_get (m : BlockMap) {b : Nat} (h : b < 8192) : m.rebuild.get b = if
    (m.get b).state = .faulty then m.get b else Block.fresh := by
  unfold BlockMap.rebuild BlockMap.get; rw [dif_pos h, dif_pos h]
  show (m.table.map _)[b] = _
  rw [Vector.getElem_map]; rfl

/-- The free list after a part reset (R43). -/
theorem rebuild_free (m : BlockMap) (b : Nat) : b ∈ m.rebuild.free ↔ b < 8192 ∧ (m.get b).state ≠ .faulty := by
  unfold BlockMap.rebuild; simp [mem_natsFrom, Config.blockCount]

/-- A rewind leaves the epoch, the session unit and the holds. -/
theorem rewind_rest (c : Bool) (s : State) : (rewind c s).catalog.epoch = s.catalog.epoch ∧
    (rewind c s).session = s.session ∧ (rewind c s).bank0 = s.bank0 ∧ (rewind c s).bank1 = s.bank1 := by
  have h := beyondEngine_rewindEntries c (logFailedWrite s)
  obtain ⟨hc, -, h0, h1, -⟩ := sameBlocks_iff.mp (logFailedWrite_blocks s)
  refine ⟨?_, (rewind_fields c s).2.2.2.2.1, h.bank0.trans h0, h.bank1.trans h1⟩
  have e := congrArg (fun x : State => x.catalog.epoch) (Eng.cap (eng_rewindEntries c (logFailedWrite s))).view
  exact (by exact e : (rewindEntries c (logFailedWrite s)).catalog.epoch = (logFailedWrite s).catalog.epoch).trans
    (congrArg (fun x : Catalog => x.epoch) hc)

/-- One conversion of DISCARD. -/
theorem low_convertEntry (acc : Nat × State) (e : Entry) : Low acc.2 (convertEntry acc e).2 := by
  unfold convertEntry; split
  · exact (low_revokeHolds _ _).trans ((low_loseEntry _ _).trans (low_returnChain _ _))
  · exact Rel.refl _

/-- The conversions of DISCARD (R158). -/
theorem low_discardAll (s : State) : Low s (discardAll s).2 := by
  unfold discardAll
  have : ∀ (l : List Entry) (acc : Nat × State), Low acc.2 (l.foldl convertEntry acc).2 := by
    intro l; induction l with
    | nil => intro acc; exact Rel.refl _
    | cons e l ih => intro acc; rw [List.foldl_cons]; exact (low_convertEntry acc e).trans (ih _)
  exact this s.catalog.entries (0, s)

end Sys2Proof.Laws
end

