-- ==== Sys2Proof/Tests/Slice0.lean ====
section
/-! SUPPORT. Tests: ill-formed commands are refused, every statement's hypotheses are met by a concrete state, and single
commands on small states answer what the spec gives. -/

namespace Sys2Proof.Tests

open Sys2Proof.Machine

set_option Elab.async false

/-! ## Helpers -/

/-- What `f` sees of the next state. -/
def seen {α : Type} (f : State → α) (o : Host.Outcome State Fault Refusal) : Option α :=
  match o with
  | .next t => some (f t)
  | _ => none

/-- Is the command refused as ill formed? -/
def refused (o : Host.Outcome State Fault Refusal) : Bool :=
  match o with
  | .refused .illFormed => true
  | _ => false

/-- The status of the entry at a port's completion head. -/
def firstStatus (p : Port) (s : State) : Nat := fieldAt ((s.port p).queued 0) 4 2

/-- After power-on and a successful calibration. -/
def ready : State := { State.reset with mem := { MemService.reset with cal := .ready } }

/-- A request of Port 0 with tag 7. -/
def ask (q : Request) : Passed := { port := .p0, tag := 7, request := q, live := true }

/-- The state with that request passed and in hand. -/
def asked (q : Request) (s : State) : State :=
  { s with passed := [ask q], port0 := { s.port0 with inHand := some { code := q.code, tag := 7 } } }

/-- A DATA record of four frames of one slot, in block 0. -/
def record : DataFields :=
  { mode := .segmented, retention := .lossless, layout := [{ source := .channel 0, coding := .unsigned }], frameSize := 2
    first := 100, frames := 4, firstBlock := some 0, blockCount := 1, startOffset := 0, trigger := none, marks := []
    markOverflow := 0, shortPretrigger := false, truncated := false, afterGap := false, damaged := false
    resumedArchive := false }

/-- Entry `n` of the catalog. -/
def entry (n : Nat) (st : EntryState) (archReq : Bool) : Entry :=
  { number := n, state := st, session := 1, archReq := archReq, body := .data record }

/-- A SEALED record of `n` frames. -/
def longEntry (n : Nat) : Entry := { entry 1 .sealed true with body := .data { record with frames := n } }

/-- A GAP entry. -/
def gapEntry (n : Nat) : Entry :=
  { number := n, state := .sealed, session := 1, archReq := true, body := .gap { first := 5, count := 2, cause := .intakeFull } }

/-- The state with one SEALED archive-required record, whose one block is block 0. -/
def stored : State :=
  { ready with
    catalog := { entries := [entry 1 .sealed true], next := 2, epoch := 0, session := 1 }
    blocks := { State.reset.blocks with free := natsFrom 1 8191 }
    mem := { ready.mem with cells := [(0, 0x11), (1, 0x22), (2, 0x33), (7, 0x44)] } }

/-- A hold of record 1 with a window at the bottom of the aperture. -/
def windowed (kind : HoldKind) (interval : Nat) : Hold :=
  { tag := 3, kind := kind, first := 1, last := 1, interval := interval, remaining := interval, ticks := 0
    window := some { base := 0, size := 4194304 } }

/-- That state with holds in slots 0 and 1 of Port 0 as given. -/
def holding (a b : Option Hold) (s : State) : State := { s with bank0 := (s.bank0.setSlot 0 a).setSlot 1 b }

/-- Every slot of Port 0 ACTIVE. -/
def fullBank : HoldBank := { HoldBank.reset with slots := Vector.replicate 16 (some (windowed .firm 5)) }

/-- The part with its engine bound to Port 0, one buffer supplied. -/
def bound (g : EngineState) (s : State) : State :=
  { s with engine := { Engine.reset with bound := some .p0, state := g, buffers := [{ addr := 0x1000, size := 8192 }] } }

/-- A write that the engine has issued. -/
def outWrite : OutWrite := { addr := 0x1000, off := 0, len := 96, entry := 1 }

/-- The session RUNNING, of the given mode and with its blocks in the given states. -/
def running (mode : CaptureMode) (w : WriterState) (a : AlignerState) : State :=
  { ready with
    session := { Session.reset with state := .running }
    writer := { Writer.idle { WriterParams.reset with mode := mode, frameSize := 2, framesPerBlock := 2097152 } with
      state := w, nextFrame := some 0 }
    aligner := { Aligner.rest { AlignerParams.reset with mode := mode, post := 4 } with
      state := a, newest := some 31, firstFrame := some 0, armingFrame := some 0 }
    intake := { Intake.reset with
      state := .accepting, linkUp := true, linkSeen := true, frameSize := 2, hiMark := 12, loMark := 4
      setup := [{ source := .channel 0, coding := .unsigned }], expected := some 32, newest := some 31
      firstFrame := some 0 } }

/-- Thirty-two frames of zero samples. -/
def quiet : Vector (Vector Sample 8) 32 := Vector.replicate 32 (Vector.replicate 8 0)

/-- Legal configuration parameters: channel 0 alone. -/
def rawLegal : RawConfig :=
  { mode := 0, pairModes := 0, enables := 1, codings := 0, pre := 0, post := 1, span := 1, rawLatency := 0, holdoff := 0
    rearm := 0, early := 0, markEnables := 0, archReq := 0, retention := 0, hiMark := 12, loMark := 4, order := 0
    flush := 1000, buffersLow := 0, startAlign := 0 }

/-- A part configured with them. -/
def configured (s : State) : State :=
  { s with session := { s.session with config := some rawLegal.record, generation := 1 } }

/-! ## Ill-formed commands -/

theorem test_read_past_aperture : refused (exec (.windowRead .p0 68719476736 1) State.reset) = true := by decide
theorem test_read_of_no_bytes : refused (exec (.windowRead .p0 0 0) State.reset) = true := by decide
theorem test_read_too_long : refused (exec (.windowRead .p0 0 257) State.reset) = true := by decide
theorem test_aperture_write_of_no_bytes : refused (exec (.apertureWrite .p1 0 []) State.reset) = true := by decide
theorem test_aperture_write_past_aperture : refused (exec (.apertureWrite .p1 68719476736 [0]) State.reset) = true := by
  decide
theorem test_control_write_of_no_bytes : refused (exec (.controlWindowWrite .p0 0 []) State.reset) = true := by decide
theorem test_control_write_too_long :
    refused (exec (.controlWindowWrite .p0 0 (List.replicate 257 0)) State.reset) = true := by
  decide +kernel
theorem test_every_group_is_well_formed :
    (Instr.frameGroup 0xFFFFFFFFFFFFFFFF quiet).wf = true ∧
      (Instr.start .p0 (some { first := 0xFFFFFFFFFFFFFFFF, arrived := 31 })).wf = true := by decide

/-! ## States that meet the statements' hypotheses -/

theorem test_premises_StepRunsFrontCommand :
    ({ State.reset with pending := [.powerOn] } : State).pending = .powerOn :: [] := rfl

theorem test_premises_WellFormedCommandsComplete :
    (Instr.powerOn.wf = true ∧
      ((ready.mem.busy = none) ∧
        inCapture 34359738366 ([1, 2] : List Byte).length = true ∧ inCapture 34359738367 2 = false)) ∧
      (Instr.windowRead .p0 0 0).wf = false := by decide

/-- An idle step from power-on is a next state, so the invariants' statements are about something. -/
theorem test_premises_step_answers : (∃ t, step State.reset = .next t) ∧ (∃ t, step ready = .next t) :=
  ⟨⟨_, rfl⟩, ⟨_, rfl⟩⟩
theorem test_premises_MemoryStaysCanonical : stored.memoryCanonical := by unfold State.memoryCanonical; decide
theorem test_premises_RefreshDebtStaysBounded :
    ({ ready with mem := { ready.mem with debt := 9 } } : State).debtBounded := by unfold State.debtBounded; decide
theorem test_premises_CatalogStaysNumbered : stored.catalog.Numbered := ⟨by decide, by decide, by decide, by decide⟩

theorem test_premises_CompletionEntriesStay :
    (∃ t, exec (.completionHeadWrite .p1 0) State.reset = .next t) ∧ (∀ v, Instr.completionHeadWrite .p1 0 ≠ .completionHeadWrite .p0 v) ∧
      Instr.completionHeadWrite .p1 0 ≠ .powerOn :=
  ⟨⟨_, rfl⟩, nofun, nofun⟩
theorem test_premises_OnlyWriterBurstsWriteMemory :
    (∃ t, exec .refreshDue stored = .next t) ∧ Instr.refreshDue ≠ .powerOn ∧ Instr.refreshDue ≠ .calibrationSuccess ∧
      ∀ ks, Instr.refreshDue ≠ .writerBurstDone ks :=
  ⟨⟨_, rfl⟩, nofun, nofun, nofun⟩

theorem test_premises_CalibrationEnds : State.reset.mem.cal = .calibrating ∧ ready.mem.cal ≠ .calibrating := by decide
theorem test_premises_RefreshComesDue :
    ready.mem.cal = .ready ∧ ready.mem.busy = none ∧ ready.mem.debt < 8 ∧
      8 ≤ ({ ready with mem := { ready.mem with debt := 8 } } : State).mem.debt ∧ State.reset.mem.cal ≠ .ready := by decide

/-- A memory service whose refresh has completed. -/
def refreshed (debt : Nat) (order : ArbOrder) (w : Option WriterBurst) (a : Option ArchiveBurst)
    (q0 q1 : List WindowBurst) : State :=
  { ready with
    mem :=
      { ready.mem with
        busy := some .refresh, debt := debt, order := order, writerAsk := w, archiveAsk := a, windowAsk0 := q0
        windowAsk1 := q1 } }

/-- Bursts asked. -/
def aWrite : WriterBurst := { block := 0, addr := 0, count := 1, bytes := [1, 2] }
def aFetch : ArchiveBurst := { addr := 0, len := 8 }
def aRead : WindowBurst := { port := .p1, read := 0, piece := 0, addr := 0, len := 8, record := 1, epoch := 0 }

/-- The grant that follows a completed refresh, and the port the pointer then names. -/
def granted (s : State) : Option (Option Grant × Port) := seen (fun t => (t.mem.busy, t.mem.pointer)) (exec .refreshDone s)

/-- The clauses of ArbiterGrantsHighestLevel, each on a state that meets its premises (R142, R143). -/
theorem test_arbiter_refresh_at_nine :
    granted (refreshed 9 .normal (some aWrite) none [] []) = some (some .refresh, .p0) := by decide
theorem test_arbiter_refresh_owed : granted (refreshed 1 .viewFirst (some aWrite) none [aRead] []) = some (some .refresh, .p0) := by
  decide
theorem test_arbiter_urgent_writer :
    granted { refreshed 8 .normal (some aWrite) none [] [] with intake := { Intake.reset with urgent := true } } =
      some (some (.writer aWrite), .p0) := by decide
theorem test_arbiter_normal :
    granted (refreshed 0 .normal (some aWrite) (some aFetch) [aRead] []) = some (some (.writer aWrite), .p0) ∧
      granted (refreshed 0 .normal none (some aFetch) [aRead] []) = some (some (.archive aFetch false), .p0) ∧
      granted (refreshed 0 .normal none none [aRead] []) = some (some (.window aRead), .p1) ∧
      granted (refreshed 0 .normal none none [] [aRead]) = some (some (.window aRead), .p0) := by decide
theorem test_arbiter_view_first :
    granted (refreshed 0 .viewFirst (some aWrite) (some aFetch) [aRead] []) = some (some (.window aRead), .p1) ∧
      granted (refreshed 0 .viewFirst (some aWrite) (some aFetch) [] []) = some (some (.writer aWrite), .p0) ∧
      granted (refreshed 0 .viewFirst none (some aFetch) [] []) = some (some (.archive aFetch false), .p0) ∧
      granted (refreshed 0 .viewFirst none none [] []) = some (none, .p0) := by decide

/-! ### Intake and the trigger link -/

/-- A running segmented session in PASSING, and one in which a group is in transfer. -/
def passing : State := running .segmented .passing .armed
def inGroup (x : InTransfer) : State := { passing with intake := { passing.intake with inTransfer := x } }

theorem test_premises_FrameGroupIsTaken :
    passing.intake.linkUp = true ∧ passing.intake.state = .accepting ∧ passing.intake.inTransfer = .nothing ∧
      passing.intake.expected = some (32 : BitVec 64).toNat ∧ (32 : BitVec 64).toNat < (33 : BitVec 64).toNat ∧
      (inGroup (.partialGroup 31)).intake.inTransfer = .partialGroup 31 ∧
      (0xFFFFFFFFFFFFFFE0 : BitVec 64).toNat + 31 < 2 ^ 64 ∧ ¬ (0xFFFFFFFFFFFFFFE0 : BitVec 64).toNat + 32 < 2 ^ 64 := by
  decide
/-- The last group whose frames all have an index, and the one after it (log entry 43). -/
theorem test_group_at_last_index :
    seen (fun t => (t.intake.newest, t.session.totals.received))
      (exec (.frameGroup 0xFFFFFFFFFFFFFFE0 quiet) passing) = some (some 0xFFFFFFFFFFFFFFFF, 32) := by decide +kernel
theorem test_group_past_last_index :
    (seen (fun t => t.session.totals.received) (exec (.frameGroup 0xFFFFFFFFFFFFFFE1 quiet) passing)).isSome = true := by
  decide +kernel
theorem test_premises_FrameGroupNotTaken :
    State.reset.intake.linkUp = false ∧ passing.intake.expected = some 32 ∧ (31 : BitVec 64).toNat < 32 ∧
      (inGroup .discardGroup).intake.inTransfer = .discardGroup := by decide

/-- A whole group joins the buffer; one after a gap of one index declares one frame missing; a late one is malformed. -/
theorem test_group_in_order :
    seen (fun t => (frameCount t.intake.items, t.intake.expected, t.session.totals.received))
      (exec (.frameGroup 32 quiet) passing) = some (32, some 64, 32) := by decide +kernel
theorem test_group_after_gap :
    seen (fun t => (t.intake.items.head?, t.session.totals.missing, t.session.totals.dropped))
      (exec (.frameGroup 33 quiet) passing) =
        some (some (.cut { first := 32, count := 1, cause := .linkIndex, closed := true }), 1, 1) := by decide +kernel
theorem test_group_late :
    seen (fun t => (t.intake.items, t.counters.intake.groupsMalformed, (t.faults.records.get 0).valid))
      (exec (.frameGroup 31 quiet) passing) = some ([], 1, true) := by decide +kernel

/-- The sample codings of R129 at their limits. -/
theorem test_slot_values :
    let v : Vector Sample 8 := #v[0xFFFF, 0, 0, 0xFFFF, 0x8000, 0x8000, 0, 1]
    slotValue v { source := .channel 0, coding := .signed } = 0x7FFF ∧
      slotValue v { source := .pair 0, coding := .signed } = 0x7FFF ∧
      slotValue v { source := .pair 1, coding := .signed } = 0x8000 ∧
      slotValue v { source := .pair 1, coding := .unsigned } = 0 ∧
      slotValue v { source := .pair 3, coding := .unsigned } = 0x7FFF := by decide

/-- Buffers with room, with no room for bytes, and with sixteen cuts; with an OPEN cut at the newest end and without. -/
def buffered (frameSize : Nat) (items : List Item) : Intake := { passing.intake with frameSize := frameSize, items := items }
def cutItem (closed : Bool) : Item := .cut { first := 3, count := 1, cause := .intakeFull, closed := closed }

theorem test_premises_FramesAreAcceptedOrDropped :
    ((buffered 1048576 []).hasRoom = true ∧ (buffered 1048576 []).openCut = none) ∧
      ((buffered 16 (List.replicate 15 (cutItem false))).hasRoom = true ∧
        (buffered 16 (List.replicate 15 (cutItem false))).openCut.isSome = true) ∧
      ((buffered 16 (List.replicate 16 (cutItem false))).hasRoom = false ∧
        (buffered 16 (List.replicate 16 (cutItem false))).openCut.isSome = true) ∧
      ((buffered 1048576 [.frame 0 []]).hasRoom = false ∧ (buffered 1048576 [.frame 0 []]).openCut = none) := by decide

theorem test_premises_LinkChangesAreLogged :
    passing.intake.linkUp = true ∧ passing.intake.inTransfer = .nothing ∧
      (inGroup (.partialGroup 31)).intake.linkUp = true ∧
      (inGroup (.partialGroup 31)).intake.inTransfer = .partialGroup 31 ∧
      State.reset.intake.linkUp = false ∧ State.reset.intake.linkSeen = false ∧
      ({ State.reset with intake := { Intake.reset with linkSeen := true } } : State).intake.linkSeen = true := by decide
theorem test_link_down :
    seen (fun t => (t.intake.linkUp, (t.faults.records.get 0).kind, (t.faults.records.get 0).detail)) (exec .linkDown passing) =
      some (false, 1, 32) := by decide
theorem test_link_down_in_group :
    seen (fun t => (t.intake.linkUp, t.intake.inTransfer, t.writer.nextFrame, t.aligner.armingFrame))
      (exec .linkDown (inGroup (.partialGroup 31))) = some (false, .nothing, none, none) := by decide
theorem test_link_up_again :
    seen (fun t => (t.intake.linkUp, (t.faults.records.get 0).valid))
      (exec .linkUp { State.reset with intake := { Intake.reset with linkSeen := true } }) = some (true, true) := by decide
theorem test_link_up_first :
    seen (fun t => (t.intake.linkUp, (t.faults.records.get 0).valid)) (exec .linkUp State.reset) = some (true, false) := by
  decide

/-- A trigger that no aligner state has judged, and a mark at a frame. -/
def trigger (frame : Nat) : Trigger := { frame := frame, fine := 9, source := .main, stamp := .aligned }

def markAt (frame : Nat) : Mark := { frame := frame, fine := 9, source := .main }

/-- A segmented session in the given aligner state, the main input's marks enabled; and a continuous one. -/
def judging (a : Aligner → Aligner) : State :=
  { passing with
    aligner := a { passing.aligner with params := { passing.aligner.params with markMain := true, holdoff := 2, early := .ignore } } }
def marking (a : Aligner → Aligner) : State :=
  let s := running .continuous .recording .marking
  { s with aligner := a { s.aligner with params := { s.aligner.params with markMain := true } } }

/-- A capture of record 1 from frame 4, its last frame 9. -/
def captured : CaptureRecord := { number := 1, first := 4, last := some 9 }

theorem test_premises_AlignedTriggerIsJudged :
    (State.reset.counting = false ∧ passing.counting = true ∧ passing.aligner.params.mode = .segmented) ∧
      (∀ n, (judging (fun a => { a with newest := some 31, params := { a.params with rawLatency := 32 } })).aligner.newest
        = some n → n < 32) ∧
      Stamped (.aligned .main 32 9) (trigger 32) passing.aligner ∧
      Stamped (.raw .main 9) { frame := 31, fine := 9, source := .main, stamp := .raw } passing.aligner ∧
      ({ passing with intake := buffered 2 [cutItem true] } : State).inEpisode 3 = true ∧
      (passing.inEpisode 32 = false ∧ passing.aligner.newest = some 31 ∧ passing.aligner.pending = none) ∧
      ({ passing with aligner := { passing.aligner with pending := some (trigger 40) } } : State).aligner.pending ≠ none ∧
      (passing.aligner.state = .armed ∧ passing.aligner.handOver = none ∧ passing.aligner.armingFrame = some 0 ∧
        passing.inEpisode 0 = false ∧ passing.inEpisode 31 = false) := by
  refine ⟨by decide, ?_, ?_, ?_, by decide, by decide, by decide, by decide⟩
  · intro n h
    have : n = 31 := by injection h with h; exact h.symm
    omega
  · exact .inl ⟨32, rfl, rfl, rfl⟩
  · exact .inr ⟨31, rfl, rfl, by decide, rfl, rfl⟩

/-- The rows of R114, of R121 and of R122, each at a boundary of its range. -/
theorem test_premises_AlignedTriggerIsJudged_rows :
    (let a := (judging (fun a => { a with state := .disarmed, lastSealed := some (4, 9) })).aligner;
      a.inLastSealed 4 = true ∧ a.inLastSealed 9 = true ∧ a.inLastSealed 10 = false ∧ a.params.markEnabled .main = true ∧
        a.params.markEnabled .aux = false) ∧
      (let a := (judging (fun a => { a with state := .holdoff, holdoffEnd := some 12 })).aligner;
        a.state = .holdoff ∧ a.holdoffEnd = some 12 ∧ 12 ≤ 12 ∧ 12 < 13) ∧
      (let a := (judging (fun a => { a with state := .capturing, capture := some captured })).aligner;
        a.state = .capturing ∧ a.capture = some captured ∧ captured.last = some 9 ∧ 3 < captured.first ∧
          9 ≤ 9 + a.params.holdoff ∧ 9 + a.params.holdoff = 11) ∧
      (let a := (judging (fun a => { a with handOver := some { frame := 5, last := 8 } })).aligner;
        a.state = .armed ∧ a.handOver = some { frame := 5, last := 8 }) ∧
      (let a := (judging (fun a => { a with state := .arming, armingFrame := some 7 })).aligner;
        a.state = .arming ∧ a.handOver = none ∧ a.armingFrame = some 7 ∧ a.params.early = .ignore) ∧
      ((marking id).aligner.params.mode = .continuous ∧ (marking id).aligner.state = .marking ∧
        ((marking id).aligner.capture.map (fun c => c.first)).or (marking id).aligner.firstFrame = some 0) ∧
      ((marking (fun a => { a with marks := List.replicate 16 (markAt 0) })).aligner.marks.length = 16 ∧
        (marking (fun a => { a with marks := List.replicate 15 (markAt 0) })).aligner.marks.length = 15) ∧
      (let s : State := { marking (fun a => { a with capture := some captured }) with
          writer := { (marking id).writer with nextFrame := some 6, newestWritten := some 5 } };
        s.aligner.handOver = none ∧ s.writerPassed 5 = true ∧ s.writerPassed 6 = false ∧ s.insideCapture 5 = true ∧
          s.insideCapture 3 = false ∧ s.aligner.capture = some captured) := by decide
theorem test_trigger_late_for_last_record :
    seen (fun t => (t.counters.trigger.lateMarks, t.counters.trigger.ignored))
      (exec (.triggerMessage (.aligned .main 9 9))
        (judging (fun a => { a with state := .disarmed, lastSealed := some (4, 9) }))) = some (1, 0) := by decide +kernel
theorem test_raw_trigger_before_first_frame :
    seen (fun t => t.counters.trigger.stale)
      (exec (.triggerMessage (.raw .main 9)) (judging (fun a => { a with params := { a.params with rawLatency := 32 } }))) =
        some 1 := by decide +kernel
theorem test_trigger_ahead_is_pending :
    seen (fun t => t.aligner.pending) (exec (.triggerMessage (.aligned .main 32 9)) passing) = some (some (trigger 32)) := by
  decide
theorem test_trigger_is_handed_over :
    seen (fun t => t.aligner.handOver)
      (exec (.triggerMessage (.aligned .main 31 9)) (running .segmented .pretrigger .armed)) =
        some (some { frame := 31, last := 34 }) := by decide

/-! ### The writer -/

theorem test_premises_PassingWriterPassesFrame :
    let s : State := { passing with intake := buffered 2 [.frame 32 [1, 2]] }
    s.writer.state = .passing ∧ s.mem.writerBurst = none ∧ s.intake.items = .frame 32 [1, 2] :: [] ∧
      (∀ c ∈ s.writer.changes, 32 < c.1) := by decide
theorem test_writer_passes_frame :
    seen (fun t => (t.intake.items, t.writer.nextFrame, t.session.totals.passedOver))
      (exec .writerTakeItem { passing with intake := buffered 2 [.frame 32 [1, 2]] }) = some ([], some 33, 1) := by decide

/-- A continuous session with record 1 open in block 0, which holds three frames. -/
def recording : State :=
  { running .continuous .recording .marking with
    catalog := { entries := [entry 1 .opened false], next := 2, epoch := 0, session := 1 }
    writer :=
      { (running .continuous .recording .marking).writer with
        params := { WriterParams.reset with mode := .continuous, frameSize := 2, framesPerBlock := 2097152, span := 1 }
        openRec := some 1, chainFirst := some 0, chainLast := some 0, chainBlocks := 1, lastFill := 3, written := 3
        nextFrame := some 32 }
    intake := { buffered 2 [.frame 32 [1, 2], .frame 33 [3, 4]] with setup := passing.intake.setup } }

/-- A recording writer while a burst that a STOP has cut off is in progress. -/
def cutOff (addr : Nat) : State :=
  { recording with
    mem := { recording.mem with busy := some (.stray { block := 1, addr := addr, count := 2, bytes := [1, 2, 3, 4] }) } }

theorem test_premises_RecordingWriterAsksBurst :
    recording.writer.state = .recording ∧ recording.writer.params.mode = .continuous ∧ recording.writer.openRec = some 1 ∧
      recording.writer.recLast = none ∧ recording.writer.handed = none ∧ recording.writer.changes = [] ∧
      recording.writer.chainLast = some 0 ∧ recording.writer.lastFill < recording.writer.params.framesPerBlock ∧
      recording.mem.writerBurst = none ∧ recording.intake.items = .frame 32 [1, 2] :: [.frame 33 [3, 4]] ∧
      recording.mem.busy = none ∧
      (cutOff 8).mem.busy = some (.stray { block := 1, addr := 8, count := 2, bytes := [1, 2, 3, 4] }) ∧
      (cutOff 8).mem.writerBurst = none ∧ (cutOff 8).writer = recording.writer ∧
      (cutOff 8).intake = recording.intake := by decide
theorem test_writer_asks_burst :
    seen (fun t => t.mem.busy) (exec .writerTakeItem recording) =
      some (some (.writer { block := 0, addr := 6, count := 2, bytes := [1, 2, 3, 4] })) := by decide +kernel

/-- That burst in progress. -/
def writing (addr : Nat) : State :=
  { recording with
    mem := { recording.mem with busy := some (.writer { block := 0, addr := addr, count := 2, bytes := [1, 2, 3, 4] }) } }

/-- A burst whose frames a STOP has dropped. -/
def strayed (addr : Nat) : State :=
  { stored with
    mem := { stored.mem with busy := some (.stray { block := 0, addr := addr, count := 2, bytes := [1, 2, 3, 4] }) } }

theorem test_premises_WriterBurstWritesItsBytes :
    (writing 34359738364).memoryCanonical ∧
      (writing 34359738364).mem.busy =
        some (.writer { block := 0, addr := 34359738364, count := 2, bytes := [1, 2, 3, 4] }) ∧
      34359738364 + 4 ≤ 34359738368 ∧ (strayed 34359738364).memoryCanonical ∧
      (strayed 34359738364).mem.busy =
        some (.stray { block := 0, addr := 34359738364, count := 2, bytes := [1, 2, 3, 4] }) ∧
      (strayed 34359738364).writer.state = .idle ∧ (cutOff 34359738364).writer.state = .recording ∧
      (cutOff 34359738364).memoryCanonical ∧ (cutOff 34359738364).mem.writerAsk = none := by
  unfold State.memoryCanonical; decide
theorem test_burst_writes :
    seen (fun t => (t.mem.cells, t.session.totals.written, t.writer.lastFill, frameCount t.intake.items))
      (exec (.writerBurstDone []) (writing 6)) = some ([(6, 1), (7, 2), (8, 3), (9, 4)], 2, 5, 0) := by decide +kernel
theorem test_stray_burst_writes :
    seen (fun t => (t.mem.cells, t.session.totals.written))
      (exec (.writerBurstDone [{ granule := 1073741823, bit := 511 }]) (strayed 8)) =
        some ([(0, 0x11), (1, 0x22), (2, 0x33), (7, 0x44), (8, 1), (9, 2), (10, 3), (11, 4)], 0) := by decide +kernel
theorem test_stray_burst_then_next :
    seen (fun t => t.mem.busy) (exec .writerTakeItem (cutOff 4194304)) =
        some (some (.stray { block := 1, addr := 4194304, count := 2, bytes := [1, 2, 3, 4] })) ∧
      seen (fun t => t.mem.busy) (exec (.writerBurstDone []) (cutOff 4194304)) =
        some (some (.writer { block := 0, addr := 6, count := 2, bytes := [1, 2, 3, 4] })) := by decide +kernel
theorem test_burst_past_memory_stops :
    (match exec (.writerBurstDone []) (writing 34359738366) with
      | .fault .outsideCaptureMemory => true
      | _ => false) = true := by decide

/-- A writer STARVED for a block, with one offered. -/
def starved : State :=
  { recording with
    writer :=
      { recording.writer with
        state := .starved, waiting := some .takeBlock, cause := some .blocks, resume := .recording, offered := true
        lastFill := 2097152 }
    blocks :=
      { (State.reset.blocks.modify 0 (fun k => { k with state := .stored, owner := some 1, held := 2097152 })) with
        free := [5] } }

theorem test_premises_OfferedBlockEndsStarvation :
    starved.writer.state = .starved ∧ starved.writer.offered = true ∧ starved.writer.waiting = some .takeBlock ∧
      starved.blocks.free = 5 :: [] ∧ starved.writer.chainLast = some 0 ∧ (starved.blocks.get 0).state ≠ .filling := by
  decide
theorem test_offer_is_taken :
    seen (fun t => (t.writer.state, t.writer.chainLast, t.blocks.free, (t.port .p0).entries))
      (exec .waitingRequestOffer starved) = some (.recording, some 5, [], 1) := by decide +kernel

/-! ### The archive engine -/

/-- The engine IDLE and bound, with one entry in the catalog. -/
def idleWith (e : Entry) : State := bound .idle { stored with catalog := { stored.catalog with entries := [e] } }

theorem test_premises_EngineStartsEntry :
    let s := idleWith (entry 1 .sealed true)
    (s.engine.bound = some .p0 ∧ s.engine.state = .idle ∧ s.engine.ending = none ∧ s.engine.closed = none ∧
      s.engine.progress.started = false) ∧
      (s.catalog.find (s.catalog.skip s.engine.sendPos) = some (entry 1 .sealed true) ∧ s.engine.claim = none) ∧
      ((idleWith (entry 1 .lost true)).catalog.find ((idleWith (entry 1 .lost true)).catalog.skip 1) =
        some (entry 1 .lost true)) ∧
      ((idleWith (gapEntry 1)).catalog.find ((idleWith (gapEntry 1)).catalog.skip 1) = some (gapEntry 1)) := by
  decide +kernel

/-- The HEADER of a started record is one write of 98 bytes and the header of its DATA frame one of 32; the payload is then
asked of the arbiter (R76, R79, R81). -/
theorem test_entry_starts :
    seen (fun t => (t.engine.claim, t.engine.issued.map (fun w => w.len), t.mem.busy))
      (exec .entryStart (idleWith (entry 1 .sealed true))) =
        some (some 1, [98, 32], some (.archive { addr := 0, len := 8 } false)) := by decide +kernel
theorem test_gap_entry_starts :
    seen (fun t => (t.engine.claim, t.engine.issued.map (fun w => w.len), t.engine.state))
      (exec .entryStart (configured (idleWith (gapEntry 1)))) = some (none, [56], .idle) := by decide +kernel

/-- A DATA frame of the record's eight bytes (zero as they stand at the end of memory), placed after a HEADER. -/
def dataFrame : DataFrame :=
  { off := 98, len := 8, runs := [(34359738360, 8)], sent := 0, got := [] }

/-- That frame in production, its burst in progress. -/
def fetching (discard : Bool) : State :=
  let s := idleWith (entry 1 .sealed true)
  { s with
    engine :=
      { s.engine with
        state := .sending, claim := some 1, used := 138, touched := some (1, 1)
        progress := { Progress.clear with started := true, stage := .data, frame := some dataFrame } }
    mem := { s.mem with busy := some (.archive { addr := 34359738360, len := 8 } discard) } }

/-- The same while an UNBIND_ARCHIVE waits for the answer to a write. -/
def unbinding : State :=
  let s := fetching false
  { s with
    engine :=
      { s.engine with
        issued := [outWrite], ending := some (.unbind { port := .p0, tag := 5, request := .unbindArchive, live := true }) } }

theorem test_premises_ArchiveBurstJoinsFrame :
    (fetching false).mem.busy = some (.archive { addr := 34359738360, len := 8 } false) ∧ (fetching false).engine.ending = none ∧
      (fetching true).mem.busy = some (.archive { addr := 34359738360, len := 8 } true) ∧
      (fetching false).engine.progress.frame = some dataFrame ∧
      34359738360 + 8 ≤ 34359738368 ∧ unbinding.mem.busy = some (.archive { addr := 34359738360, len := 8 } false) ∧
      unbinding.engine.ending = some (.unbind { port := .p0, tag := 5, request := .unbindArchive, live := true }) ∧
      unbinding.engine.issued ≠ [] ∧
      unbinding.engine.progress.frame = some dataFrame := by decide +kernel
/-- Two flipped bits in one granule. -/
def struck (g : Nat) (s : State) : State := { s with mem := { s.mem with flipped := [(g, 0), (g, 1)] } }

theorem test_damage_while_unbinding :
    seen (fun t => ((t.catalog.find 1).bind Entry.data?).map (fun x => x.damaged))
        (exec (.archiveBurstDone []) (struck 1073741823 unbinding)) = some (some true) ∧
    seen (fun t => (t.counters.archive.damagedSent, t.counters.memory.uncorrectable, t.engine.ending.isSome))
        (exec (.archiveBurstDone []) (struck 1073741823 unbinding)) = some (1, 1, true) := by decide +kernel
theorem test_archive_burst_places_data :
    seen (fun t => (t.engine.issued.map (fun w => (w.off, w.len)), t.engine.used))
      (exec (.archiveBurstDone []) (fetching false)) = some ([(130, 8), (138, 48)], 186) := by decide +kernel

/-- The flags byte of an archive frame's header that a write carries. -/
def sentFlags : LinkEvent → Option Nat
  | .archiveWrite _ (0x4E :: 0x5A :: _ :: flags :: _) => some flags.toNat
  | _ => none

/-- The header of a DATA frame shows DAMAGED for a damaged granule of its payload, and the END after it (R80). -/
theorem test_damaged_frame_shows_flag :
    seen (fun t => (t.port .p0).link.filterMap sentFlags) (exec .entryStart (struck 0 (idleWith (entry 1 .sealed true)))) =
        some [0, 1] ∧
      seen (fun t => (t.engine.issued.map (fun w => (w.off, w.len)), (t.port .p0).link.filterMap sentFlags))
          (exec (.archiveBurstDone []) (struck 1073741823 (fetching false))) =
        some ([(130, 8), (138, 48)], [1]) := by decide +kernel

/-- Bit errors in a granule of the DATA frame in production take hold at the next burst that completes after it (log entry
5). -/
theorem test_bit_errors_wait_for_frame :
    seen (fun t => ((t.port .p0).link.filterMap sentFlags, t.mem.flipped, t.mem.late))
        (exec (.archiveBurstDone [{ granule := 1073741823, bit := 0 }, { granule := 1073741823, bit := 1 }]) (fetching false)) =
      some ([0], [], [(1073741823, 0), (1073741823, 1)]) ∧
    (strikeAll [] { fetching false with engine := Engine.reset, mem := { MemService.reset with late := [(7, 1)] } }).mem =
      { MemService.reset with flipped := [(7, 1)] } := by decide +kernel

/-- A DATA frame of 600 bytes, of which 512 have been read: they are issued, and the last 88 are asked (R141). -/
theorem test_next_burst_follows_issue :
    let s := idleWith (longEntry 300)
    let f : DataFrame := { dataFrame with len := 600, got := List.replicate 512 0 }
    seen (fun t => (t.engine.issued.map (fun w => (w.off, w.len)), t.mem.archiveAsk))
        (.next (runEngine
          { s with
            engine :=
              { s.engine with
                state := .sending, claim := some 1, used := 730
                progress := { Progress.clear with started := true, stage := .data, frame := some f } } })) =
      some ([(130, 256), (386, 256)], some { addr := 512, len := 88 }) := by decide +kernel

/-- Writes not yet answered. -/
def unanswered (g : EngineState) : State :=
  { bound g stored with
    engine :=
      { (bound g stored).engine with
        issued := [outWrite], used := 96, touched := some (1, 1), claim := some 1
        progress := { Progress.clear with started := true } } }

/-- Two writes not yet answered; and a failed write that waits for the answer to one. -/
def twoUnanswered : State :=
  { unanswered .sending with engine := { (unanswered .sending).engine with issued := [outWrite, { outWrite with off := 96 }] } }
def failedWaits : State :=
  { unanswered .faulted with
    engine := { (unanswered .faulted).engine with failed := some { addr := 0x1060, used := 96 } } }

theorem test_premises_ArchiveWriteIsAcknowledged :
    (unanswered .sending).engine.issued[0]? = some outWrite ∧ (unanswered .sending).engine.ending = none ∧
      (unanswered .sending).engine.state ≠ .faulted ∧
      ((unanswered .faulted).engine.state = .faulted ∧ (unanswered .faulted).engine.failed = none) := by decide
theorem test_write_is_acknowledged :
    seen (fun t => (t.engine.issued, t.counters.archive.bytesWritten, t.engine.progress.written))
      (exec (.archiveWriteAck 0)
        { fetching false with engine := { (fetching false).engine with issued := [outWrite] } }) = some ([], 96, true) := by
  decide +kernel

theorem test_premises_LinkWriteErrorFaultsEngine :
    (unanswered .sending).engine.issued[0]? = some outWrite ∧ (unanswered .sending).engine.bound = some .p0 ∧
      (unanswered .sending).engine.ending = none ∧ (unanswered .sending).engine.state ≠ .faulted ∧
      (unanswered .sending).engine.issued.eraseIdx 0 = [] ∧ twoUnanswered.engine.issued.eraseIdx 1 ≠ [] ∧
      (failedWaits.engine.state = .faulted ∧ failedWaits.engine.issued[0]? = some outWrite ∧
        failedWaits.engine.issued.eraseIdx 0 = [] ∧ failedWaits.engine.failed = some { addr := 0x1060, used := 96 }) := by
  decide
theorem test_link_write_error :
    seen (fun t => (t.engine.state, t.engine.claim, t.engine.buffers, (t.faults.records.get 2).valid))
      (exec (.linkWriteError 0) (unanswered .sending)) = some (.faulted, none, [], true) := by decide +kernel

theorem test_link_write_error_waits :
    seen (fun t => (t.engine.state, t.engine.failed, t.engine.buffers.length, (t.faults.records.get 2).valid))
      (exec (.linkWriteError 1) twoUnanswered) =
        some (.faulted, some { addr := 0x1000, used := 96 }, 1, false) := by decide +kernel
theorem test_failed_write_is_reported :
    seen (fun t => (t.engine.failed, t.engine.claim, t.engine.buffers, (t.faults.records.get 2).detail))
      (exec (.archiveWriteAck 0) failedWaits) = some (none, none, [], 0x1060) := by decide +kernel

/-- The flush timer running. -/
def flushing : State :=
  { bound .idle ready with
    engine := { (bound .idle ready).engine with flush := some { remaining := 5, ticks := 0 }, used := 128, touched := some (1, 1) } }

theorem test_premises_FlushTimerClosesBuffer :
    (flushing.engine.state = .idle ∧ flushing.engine.flush.isSome = true ∧ flushing.engine.ending = none ∧
      flushing.engine.bound = some .p0 ∧ flushing.engine.issued = [] ∧ 0 < (flushing.port .p0).free ∧
      flushing.engine.buffers = { addr := 0x1000, size := 8192 } :: []) ∧
      (bound .sending ready).engine.state ≠ .idle ∧ (bound .idle ready).engine.flush = none := by decide
theorem test_flush_timer :
    seen (fun t => (t.engine.buffers, t.engine.used, (t.port .p0).entries, fieldAt ((t.port .p0).queued 0) 1 1))
      (exec .flushTimerExpiry flushing) = some ([], 0, 1, 0x83) := by decide +kernel

/-! ### Windows -/

theorem test_premises_UnmappedReadIsAnError :
    (∀ i h w, (ready.bank .p0).hold i = some h → h.window = some w → ¬ (w.base ≤ 0 ∧ 0 < w.base + w.size)) ∧
      ∀ i, ((holding (some (windowed .firm 0)) none stored).bank .p0).hold i = none ∨
        ((holding (some (windowed .firm 0)) none stored).bank .p0).hold i = some (windowed .firm 0) ∧
          ¬ (0 ≤ 4194304 ∧ 4194304 < 0 + 4194304) := by
  constructor
  · intro i h w hi
    have : ∀ i, (ready.bank .p0).hold i = none := by decide
    rw [this i] at hi; cases hi
  · decide
theorem test_unmapped_read :
    seen (fun t => ((t.port .p0).link, (t.port .p0).unmappedRead, (t.faults.records.get 4).detail))
      (exec (.windowRead .p0 4194304 1) (holding (some (windowed .firm 0)) none stored)) =
        some ([.readError 4194304], true, 4194304) := by decide +kernel

theorem test_premises_DecodeConflictIsReported :
    ((holding (some (windowed .firm 0)) (some (windowed .yielding 0)) stored).bank .p0).answering 4194303 = [0, 1] := by
  decide
theorem test_decode_conflict :
    seen (fun t => ((t.port .p0).decodeConflict, (t.bank .p0).reads.length))
      (exec (.windowRead .p0 0 8) (holding (some (windowed .firm 0)) (some (windowed .firm 0)) stored)) =
        some (true, 1) := by decide +kernel

theorem test_premises_WindowReadIsTranslated :
    let s := holding (some (windowed .firm 0)) none stored
    (s.bank .p0).answering 0 = [0] ∧ (s.bank .p0).hold 0 = some (windowed .firm 0) ∧ 0 + 8 ≤ 0 + 4194304 ∧
      s.catalog.range 1 1 = [entry 1 .sealed true] ∧ s.chainOf record.firstBlock = [0] ∧ 1 ≤ record.frameSize ∧
      record.startOffset * record.frameSize + record.bytes ≤ framesPerBlock record.frameSize * record.frameSize ∧
      0 - 0 + 8 ≤ record.bytes ∧ record.bytes ≤ 8 - 0 := by decide +kernel
theorem test_read_past_record :
    seen (fun t => ((t.port .p0).link, (t.counters.port .p0).overReads))
      (exec (.windowRead .p0 8 2) (holding (some (windowed .firm 0)) none stored)) =
        some ([.readData 8 [0, 0]], 1) := by decide +kernel

/-- A read in flight, its burst in progress. -/
def reading : State :=
  { stored with
    bank0 :=
      { HoldBank.reset with
        reads :=
          [{ id := 0, addr := 0, len := 8, age := 0
             pieces := [.run { addr := 0, len := 8, record := 1, epoch := 0, data := none }] }] }
    mem := { stored.mem with
      busy := some (.window { port := .p0, read := 0, piece := 0, addr := 0, len := 8, record := 1, epoch := 0 }) } }

theorem test_premises_WindowBurstAnswersRead :
    reading.mem.busy =
        some (.window { port := .p0, read := 0, piece := 0, addr := 0, len := 8, record := 1, epoch := 0 }) ∧
      ((reading.bank .p0).reads.find? (fun x => x.id = 0)).isSome = true ∧
      (∀ g ∈ granulesOf 0 8, (strikeAll [{ granule := 1, bit := 0 }] reading).mem.flips g = 0) := by decide
theorem test_window_read_is_answered :
    seen (fun t => ((t.port .p0).link, (t.bank .p0).reads)) (exec (.windowReadBurstDone []) reading) =
      some ([.readData 0 [0x11, 0x22, 0x33, 0, 0, 0, 0, 0x44]], []) := by decide +kernel
/-- Two flipped bits in one granule: an error response, and the record is damaged (R64, R147). -/
theorem test_uncorrectable_read :
    seen (fun t => ((t.port .p0).link, t.counters.memory.uncorrectable, (t.catalog.entries.map (fun e => e.data?.map (fun d => d.damaged)))))
      (exec (.windowReadBurstDone [{ granule := 0, bit := 0 }, { granule := 0, bit := 9 }]) reading) =
        some ([.readError 0], 1, [some true]) := by decide +kernel

theorem test_premises_ReadTimesOut :
    (reading.bank .p0).reads[0]?.isSome = true ∧ (reading.bank .p0).reads[1]? = none := by decide
theorem test_read_times_out :
    seen (fun t => ((t.port .p0).link, (t.port .p0).readTimeout, (t.bank .p0).reads)) (exec (.readTimeout .p0 0) reading) =
      some ([.readError 0], true, []) := by decide +kernel

theorem test_premises_ApertureWriteIsDiscarded :
    68719476735 < 68719476736 ∧ 1 ≤ ([0] : List Byte).length ∧ (List.replicate 256 (0 : Byte)).length ≤ 256 ∧
      ({ PortUnit.reset with writeErrorEnable := true } : PortUnit).writeErrorEnable = true ∧
      PortUnit.reset.writeErrorEnable = false := by decide +kernel
theorem test_aperture_write :
    seen (fun t => ((t.port .p1).link, (t.port .p1).writeViolation)) (exec (.apertureWrite .p1 68719476735 [1]) State.reset) =
      some ([.apertureAck 68719476735], true) := by decide

theorem test_premises_HoldExpires :
    ((holding (some (windowed .firm 5)) (some (windowed .firm 0)) stored).bank .p0).hold 0 = some (windowed .firm 5) ∧
      (windowed .firm 5).interval ≠ 0 ∧
      ((holding (some (windowed .firm 5)) (some (windowed .firm 0)) stored).bank .p0).hold 1 = some (windowed .firm 0) ∧
      (windowed .firm 0).interval = 0 ∧ (stored.bank .p0).hold 2 = none ∧
      starved.writer.state = .starved ∧ starved.writer.waiting = some .takeBlock := by decide
theorem test_hold_expires :
    seen (fun t => ((t.bank .p0).hold 0, t.counters.holds.expired, fieldAt ((t.port .p0).queued 0) 1 1))
      (exec (.holdExpiry .p0 0) (holding (some (windowed .firm 5)) none stored)) = some (none, 1, 0x82) := by
  decide +kernel

/-! ### Port units -/

/-- A request entry with tag 7. -/
def requestEntry (code : Nat) (params : List Field) : List Byte := layout 64 ([⟨0, 1, code⟩, ⟨2, 2, 7⟩] ++ params)

/-- Port 0 with one entry in its request queue. -/
def queuedEntry (e : List Byte) (s : State) : State :=
  { s with port0 := { s.port0 with reqSlots := s.port0.reqSlots.set 0 e, reqTail := 1 } }

theorem test_premises_RequestIsTaken :
    let s := queuedEntry (requestEntry 0x03 [⟨8, 4, 1⟩]) State.reset
    ((s.port .p0).reqHead ≠ (s.port .p0).reqTail ∧ 8 < (s.port .p0).free ∧ (s.port .p0).inHand = none ∧
      (s.port .p0).held = none) ∧
      checkEntry (requestEntry 0x03 [⟨8, 4, 1⟩]) = .request (.queryRecord 1) ∧
      checkEntry (requestEntry 0x05 []) = .unknown ∧ checkEntry (requestEntry 0x03 [⟨12, 1, 1⟩]) = .malformed 12 ∧
      (State.reset.port .p0).reqHead = (State.reset.port .p0).reqTail ∧
      ({ PortUnit.reset with cplTail := 55 } : PortUnit).free = 8 ∧ ({ PortUnit.reset with cplTail := 54 } : PortUnit).free = 9 := by
  decide +kernel

/-- The layouts of R188 and R189, and the fixed bytes of R171. -/
theorem test_entry_place_hold :
    checkEntry (requestEntry 0x08 [⟨8, 4, 1⟩, ⟨12, 4, 2⟩, ⟨16, 1, 1⟩, ⟨17, 1, 1⟩, ⟨18, 2, 500⟩, ⟨24, 8, 0x400000⟩, ⟨32, 8, 0x800000⟩]) =
      .request (.placeHold
        { first := 1, last := 2, kind := 1, interval := 500, window := some { base := 0x400000, size := 0x800000 } }) := by
  decide +kernel
theorem test_entry_place_hold_without_window :
    checkEntry (requestEntry 0x08 [⟨8, 4, 1⟩, ⟨12, 4, 2⟩, ⟨24, 8, 0x400000⟩]) = .malformed 26 := by decide +kernel
theorem test_entry_hold_requests :
    checkEntry (requestEntry 0x09 [⟨8, 1, 15⟩, ⟨10, 2, 0x1234⟩]) = .request (.renewHold 15 0x1234) ∧
      checkEntry (requestEntry 0x0A [⟨8, 1, 16⟩, ⟨10, 2, 3⟩]) = .request (.releaseHold 16 3) ∧
      checkEntry (requestEntry 0x0B [⟨8, 1, 2⟩]) = .request (.queryHolds true) ∧
      checkEntry (requestEntry 0x0A [⟨9, 1, 1⟩]) = .malformed 9 := by decide +kernel
theorem test_entry_supply_buffer :
    checkEntry (requestEntry 0x12 [⟨8, 8, 0x123456789000⟩, ⟨16, 4, 0x400000⟩]) =
      .request (.supplyBuffer 0x123456789000 0x400000) := by decide +kernel
theorem test_entry_start :
    checkEntry (requestEntry 0x21 [⟨8, 4, 0x01020304⟩, ⟨12, 1, 1⟩]) = .request (.start 0x01020304 true) := by decide +kernel
theorem test_entry_configure :
    checkEntry
        (requestEntry 0x20
          [⟨10, 1, 1⟩, ⟨16, 4, 1⟩, ⟨20, 2, 1⟩, ⟨33, 1, 12⟩, ⟨34, 1, 4⟩, ⟨36, 2, 1000⟩]) = .request (.configure rawLegal) ∧
      checkEntry (requestEntry 0x20 [⟨40, 1, 1⟩]) = .malformed 40 := by decide +kernel
theorem test_entry_counters_and_faults :
    checkEntry (requestEntry 0x28 [⟨8, 1, 9⟩, ⟨9, 1, 1⟩]) = .request (.readCounters 9 true) ∧
      checkEntry (requestEntry 0x2A [⟨8, 1, 0x41⟩]) = .request (.clearFaults 0x41) ∧
      checkEntry (requestEntry 0x2B [⟨8, 1, 3⟩, ⟨9, 1, 0x1F⟩]) = .request (.setFaultEnable 3 0x1F) := by decide +kernel
theorem test_entry_plain_requests :
    ([0x01, 0x02, 0x10, 0x11, 0x18, 0x19, 0x1A, 0x22, 0x23, 0x24, 0x29].map (fun c => checkEntry (requestEntry c []))) =
      [.request .describe, .request .querySpan, .request .bindArchive, .request .unbindArchive, .request .arm,
       .request .disarm, .request .forceTrigger, .request .stop, .request .abort, .request .resetPart,
       .request .readFaults] := by decide +kernel
theorem test_entry_records :
    checkEntry (requestEntry 0x03 [⟨8, 4, 0xFFFFFFFF⟩]) = .request (.queryRecord 0xFFFFFFFF) ∧
      checkEntry (requestEntry 0x04 [⟨8, 4, 2⟩]) = .request (.queryMarks 2) ∧
      checkEntry (requestEntry 0x04 [⟨1, 1, 1⟩]) = .malformed 1 ∧ checkEntry (requestEntry 0x02 [⟨63, 1, 1⟩]) = .malformed 63 := by
  decide +kernel

theorem test_request_is_taken :
    seen (fun t => (t.passed, (t.port .p0).inHand, (t.port .p0).reqHead))
      (exec (.requestTake .p0) (queuedEntry (requestEntry 0x03 [⟨8, 4, 1⟩]) State.reset)) =
        some ([ask (.queryRecord 1)], some { code := 3, tag := 7 }, 1) := by decide +kernel
theorem test_unknown_request :
    seen (fun t => (t.passed, fieldAt ((t.port .p0).queued 1) 4 2, (t.faults.records.get 4).kind))
      (exec (.requestTake .p0) (queuedEntry (requestEntry 0x05 []) State.reset)) = some ([], 16, 5) := by decide +kernel

theorem test_premises_PortRegistersAreWritten :
    (31 : BitVec 32).toNat < 32 ∧ 32 ≤ (32 : BitVec 32).toNat := by decide
theorem test_request_tail :
    seen (fun t => ((t.port .p0).reqTail, (t.port .p0).writeViolation)) (exec (.requestTailWrite .p0 31) State.reset) =
      some (31, false) ∧
    seen (fun t => ((t.port .p0).reqTail, (t.port .p0).writeViolation)) (exec (.requestTailWrite .p0 32) State.reset) =
      some (0, true) := by decide +kernel
theorem test_port_control :
    seen (fun t => (t.port .p1).controlValue) (exec (.portControlWrite .p1 0xFFFFFFFD) State.reset) = some 5 := by
  decide +kernel
theorem test_port_status :
    seen (fun t => (t.port .p0).statusValue)
      (exec (.portStatusWrite .p0 0x02)
        { State.reset with port0 := { PortUnit.reset with writeViolation := true, readTimeout := true } }) = some 8 := by
  decide +kernel

/-- A completion queue with three entries; a full one, with a completion held. -/
def threeEntries : State := { State.reset with port0 := { PortUnit.reset with cplHead := 62, cplTail := 1 } }
def heldCompletion : Completion := { code := 1, tag := 7, status := 0, detail := 0, payload := [], generation := none }
def fullQueue : State :=
  { State.reset with port0 := { PortUnit.reset with cplTail := 63, held := some heldCompletion } }

theorem test_premises_CompletionHeadIsWritten :
    (((1 : Fin 64) - (threeEntries.port .p0).cplHead).val ≤ (threeEntries.port .p0).entries ∧
      (threeEntries.port .p0).held = none) ∧
      ((threeEntries.port .p0).entries < ((2 : Fin 64) - (threeEntries.port .p0).cplHead).val) ∧
      ¬ (64 : BitVec 32).toNat < 64 ∧
      ((fullQueue.port .p0).held = some heldCompletion ∧
        ((1 : Fin 64) - (fullQueue.port .p0).cplHead).val ≤ (fullQueue.port .p0).entries ∧
        0 < ({ fullQueue.port .p0 with cplHead := 1 } : PortUnit).free) := by decide
theorem test_completion_head :
    seen (fun t => ((t.port .p0).cplHead, (t.port .p0).entries)) (exec (.completionHeadWrite .p0 1) threeEntries) =
      some (1, 0) ∧
    seen (fun t => ((t.port .p0).cplHead, (t.port .p0).writeViolation)) (exec (.completionHeadWrite .p0 2) threeEntries) =
      some (62, true) := by decide +kernel
theorem test_held_completion_is_written :
    seen (fun t => ((t.port .p0).held, (t.port .p0).entries, fieldAt ((t.port .p0).cplSlots.get 63) 1 1))
      (exec (.completionHeadWrite .p0 1) fullQueue) = some (none, 63, 1) := by decide +kernel

theorem test_premises_ControlWindowIsWritten :
    (List.replicate 64 (1 : Byte)).length = 64 ∧ ((State.reset.port .p0).reqSlots.get 31).length = 64 := by decide +kernel
theorem test_control_window :
    seen (fun t => (((t.port .p0).reqSlots.get 31).head?, (t.port .p0).writeViolation))
      (exec (.controlWindowWrite .p0 0x17C0 (List.replicate 64 9)) State.reset) = some (some 9, false) ∧
    seen (fun t => (t.port .p0).irqAddr) (exec (.controlWindowWrite .p0 0x20 [1, 2, 0, 0, 0, 0, 0, 0]) State.reset) =
      some 0x201 := by decide +kernel
theorem test_partial_register_write :
    seen (fun t => ((t.port .p0).reqTail, (t.port .p0).writeViolation))
      (exec (.controlWindowWrite .p0 0 [1, 0]) State.reset) = some (0, true) := by decide +kernel

theorem test_premises_InterruptWriteErrorIsLogged :
    0 < ({ PortUnit.reset with messages := 1 } : PortUnit).messages ∧ (State.reset.port .p0).messages = 0 := by decide
theorem test_interrupt_write_error :
    seen (fun t => ((t.faults.records.get 5).kind, (t.faults.records.get 5).detail))
      (exec (.interruptWriteError .p1) { State.reset with port1 := { PortUnit.reset with messages := 1, irqAddr := 0x40 } }) =
        some (7, 0x40) := by decide +kernel

/-- A part reset of Port 0 that waits for the answer to an archive write. -/
def resetting (unbinding : Option Passed) : State :=
  { unanswered .sending with
    engine := { (unanswered .sending).engine with ending := some (.partReset unbinding) }
    session := { Session.reset with inProgress := some (.resetPart (ask .resetPart)) } }

theorem test_premises_PortIsReset :
    ((unanswered .sending).engine.ending = none ∧ (unanswered .sending).engine.bound = some .p0 ∧
        (unanswered .sending).engine.bound ≠ some .p1 ∧ (unanswered .sending).engine.failed = none) ∧
      ((resetting none).engine.bound = some .p0 ∧ (resetting none).engine.ending = some (.partReset none) ∧
        (resetting none).session.inProgress = some (.resetPart (ask .resetPart)) ∧ (ask .resetPart).port = .p0) ∧
      (asked .abort (writing 6)).session.inProgress = none := by decide
theorem test_port_reset_ends_waiting_part_reset :
    seen (fun t => (t.engine.bound, t.session.inProgress, t.engine.ending, (t.port .p1).entries, (t.port .p0).entries))
      (exec (.portReset .p0) (resetting none)) = some (none, none, none, 1, 0) := by decide +kernel
theorem test_port_reset :
    seen (fun t => (t.engine.bound, t.engine.state, t.engine.issued.length, ((t.bank .p0).hold 0).isSome, t.passed.map (fun r => r.live)))
      (exec (.portReset .p0) (asked .stop (holding (some (windowed .firm 0)) none (unanswered .sending)))) =
        some (none, .unbound, 0, false, [false]) := by decide +kernel

/-! ### Requests -/

/-- Every request can wait in every state, so each `Waits` premise is met beside the others below. -/
theorem test_premises_Waits (q : Request) (s : State) : Waits (asked q s) .p0 q.code (ask q) := by
  refine ⟨?_, rfl⟩
  unfold asked ask
  simp [Passed.is]

theorem test_premises_QueriesAnswerAndChangeNothing :
    (ask (.queryHolds true)).request = .queryHolds true ∧ (asked .describe State.reset).passed = [ask .describe] := by
  decide
theorem test_describe :
    seen (fun t => (firstStatus .p0 t, fieldAt ((t.port .p0).queued 0) 16 4, (t.port .p0).inHand, t.passed))
      (exec (.describe .p0) (asked .describe ready)) = some (0, 0x01014208, none, []) := by decide +kernel
theorem test_query_span :
    seen (fun t => (firstStatus .p0 t, fieldAt ((t.port .p0).queued 0) 16 4, fieldAt ((t.port .p0).queued 0) 20 4))
      (exec (.querySpan .p0) (asked .querySpan stored)) = some (0, 1, 1) := by decide +kernel

theorem test_premises_RecordQueriesAnswer :
    stored.catalog.find 1 = some (entry 1 .sealed true) ∧ stored.catalog.head ≤ 1 ∧ 1 ≤ stored.catalog.tail ∧
      stored.catalog.tail < 2 ∧
      ({ Catalog.reset with entries := [entry 5 .sealed true], next := 6 } : Catalog).head = 5 := by decide
theorem test_query_record :
    (seen (firstStatus .p0) (exec (.queryRecord .p0) (asked (.queryRecord 1) stored)) = some 0 ∧
      seen (firstStatus .p0) (exec (.queryRecord .p0) (asked (.queryRecord 0) stored)) = some 2 ∧
      seen (firstStatus .p0) (exec (.queryRecord .p0) (asked (.queryRecord 2) stored)) = some 2 ∧
      seen (firstStatus .p0) (exec (.queryRecord .p0) (asked (.queryRecord 0xFFFFFFFF) stored)) = some 2) ∧
      seen (firstStatus .p0)
        (exec (.queryRecord .p0)
          (asked (.queryRecord 4) { ready with catalog := { Catalog.reset with entries := [entry 5 .sealed true], next := 6 } })) =
            some 3 := by decide +kernel
theorem test_query_marks :
    seen (firstStatus .p0) (exec (.queryMarks .p0) (asked (.queryMarks 1) stored)) = some 0 := by decide +kernel

/-- A placement over record 1, with a window. -/
def place (first last kind : Nat) : HoldArgs :=
  { first := first, last := last, kind := kind, interval := 5, window := some { base := 0, size := 4194304 } }

theorem test_premises_HoldIsPlaced :
    (ask (.placeHold (place 1 1 0))).request = .placeHold (place 1 1 0) ∧
      placeStatus .p0 (place 1 1 0) (asked (.placeHold (place 1 1 0)) (holding (some (windowed .firm 5)) none stored)) = .ok ∧
      ((holding (some (windowed .firm 5)) none stored).bank .p0).hold 1 = none ∧
      ∀ j, j < (1 : Fin 16) → ((holding (some (windowed .firm 5)) none stored).bank .p0).hold j ≠ none := by decide +kernel
theorem test_hold_is_placed :
    seen (fun t => (firstStatus .p0 t, ((t.bank .p0).hold 0).map (fun h => (h.tag, h.kind)), t.counters.holds.placed))
      (exec (.placeHold .p0) (asked (.placeHold (place 1 1 1)) stored)) = some (0, some (1, .yielding), 1) := by
  decide +kernel

theorem test_premises_HoldPlacementIsRefused :
    (placeStatus .p0 (place 2 1 0) stored = .range ∧ placeStatus .p0 (place 1 257 0) stored = .range ∧
      placeStatus .p0 (place 1 1 2) stored = .range) ∧
      placeStatus .p0 (place 1 1 0) { stored with catalog := { stored.catalog with entries := [entry 1 .lost true] } } = .gone ∧
      placeStatus .p0 (place 1 256 0) stored = .notSealed ∧
      placeStatus .p0 (place 1 1 0) { stored with catalog := { stored.catalog with entries := [entry 1 .opened true] } } =
        .notSealed ∧
      placeStatus .p0 (place 1 1 0) { stored with bank0 := fullBank } = .noSlot ∧ ∀ i, fullBank.hold i ≠ none := by
  decide +kernel
theorem test_hold_is_refused :
    seen (fun t => (firstStatus .p0 t, t.counters.holds.refused))
      (exec (.placeHold .p0) (asked (.placeHold (place 1 2 0)) stored)) = some (4, 1) := by decide +kernel

theorem test_premises_HoldIsRenewed :
    15 < 16 ∧ (15 : Fin 16).val = 15 ∧ (stored.bank .p0).hold 15 = none ∧
      (((holding (some (windowed .firm 5)) none stored).bank .p0).hold 0).map (fun h => h.tag) = some 3 ∧
      ((0 : Fin 16).val = 0 ∧ (3 : BitVec 16) ≠ 4) := by decide
theorem test_hold_is_renewed :
    let h : Hold := { windowed .yielding 5 with remaining := 1, ticks := 9 }
    seen (fun t => (firstStatus .p0 t, ((t.bank .p0).hold 0).map (fun h => (h.remaining, h.ticks))))
      (exec (.renewHold .p0) (asked (.renewHold 0 3) (holding (some h) none stored))) = some (0, some (5, 0)) ∧
    seen (firstStatus .p0) (exec (.renewHold .p0) (asked (.renewHold 16 3) (holding (some h) none stored))) = some 2 := by
  decide +kernel
theorem test_premises_HoldIsReleased :
    (((holding none (some (windowed .yielding 0)) stored).bank .p0).hold 1).map (fun h => h.tag) = some 3 ∧
      ((holding none (some (windowed .yielding 0)) stored).bank .p0).hold 0 = none ∧ 15 < 16 := by decide
theorem test_hold_is_released :
    seen (fun t => (firstStatus .p0 t, ((t.bank .p0).hold 1).isSome, t.counters.holds.released))
      (exec (.releaseHold .p0) (asked (.releaseHold 1 3) (holding none (some (windowed .yielding 0)) stored))) =
        some (0, false, 1) ∧
    seen (firstStatus .p0)
      (exec (.releaseHold .p0) (asked (.releaseHold 1 4) (holding none (some (windowed .yielding 0)) stored))) = some 6 := by
  decide +kernel
theorem test_query_holds :
    seen (fun t => (fieldAt ((t.port .p0).queued 0) 6 2, fieldAt ((t.port .p0).queued 0) 16 1, fieldAt ((t.port .p0).queued 0) 17 2))
      (exec (.queryHolds .p0) (asked (.queryHolds false) (holding (some (windowed .yielding 5)) none stored))) =
        some (0, 11, 3) := by decide +kernel

theorem test_premises_ArchiveIsBound :
    State.reset.engine.bound = none ∧ (bound .idle ready).engine.bound = some .p0 ∧
      (bound .idle ready).engine.bound = some Port.p1.other := by decide
theorem test_bind :
    seen (fun t => (firstStatus .p0 t, t.engine.bound, t.engine.state))
      (exec (.bindArchive .p0) (asked .bindArchive stored)) = some (0, some .p0, .waitBuffer) := by decide +kernel

theorem test_premises_ArchiveIsUnbound :
    State.reset.engine.bound ≠ some .p0 ∧ ((bound .idle ready).engine.bound = some .p0 ∧ (bound .idle ready).engine.issued = []) ∧
      (unanswered .sending).engine.issued ≠ [] ∧ (resetting none).engine.ending = some (.partReset none) := by decide
theorem test_unbind_met_by_part_reset :
    seen (fun t => (t.engine.ending, (t.port .p0).entries)) (exec (.unbindArchive .p0) (asked .unbindArchive (resetting none))) =
      some (some (.partReset (some (ask .unbindArchive))), 0) ∧
    seen (fun t => (t.engine.ending, t.session.inProgress, (t.port .p0).entries))
      (exec (.archiveWriteAck 0) (resetting (some (ask .unbindArchive)))) = some (none, none, 2) := by decide +kernel
theorem test_unbind :
    seen (fun t => (firstStatus .p0 t, fieldAt ((t.port .p0).queued 0) 16 1, t.engine.bound))
      (exec (.unbindArchive .p0) (asked .unbindArchive (bound .idle ready))) = some (0, 1, none) ∧
    seen (fun t => ((t.port .p0).entries, t.engine.bound))
      (exec (.unbindArchive .p0) (asked .unbindArchive (unanswered .sending))) = some (0, some .p0) := by decide +kernel

/-- The engine's buffer list full. -/
def fullList : State :=
  { bound .idle ready with
    engine := { (bound .idle ready).engine with buffers := List.replicate 64 { addr := 0x1000, size := 4096 } } }

theorem test_premises_BufferIsSupplied :
    ready.engine.bound ≠ some .p0 ∧ (bound .faulted ready).engine.state = .faulted ∧
      (4096 ≤ 4194304 ∧ 4194304 % 4096 = 0 ∧ (0x1000 : Addr64).toNat % 4096 = 0) ∧ ¬ 4198400 ≤ 4194304 ∧ ¬ 4096 ≤ 0 ∧
      64 ≤ fullList.engine.buffers.length ∧ (bound .waitBuffer ready).engine.buffers.length < 64 := by decide +kernel
theorem test_supply_buffer :
    seen (fun t => (firstStatus .p0 t, t.engine.buffers.length))
      (exec (.supplyBuffer .p0) (asked (.supplyBuffer 0x2000 4096) (bound .idle ready))) = some (0, 2) ∧
    seen (firstStatus .p0) (exec (.supplyBuffer .p0) (asked (.supplyBuffer 0x2001 4096) (bound .idle ready))) = some 2 ∧
    seen (firstStatus .p0) (exec (.supplyBuffer .p0) (asked (.supplyBuffer 0x2000 4096) fullList)) = some 9 := by
  decide +kernel

theorem test_premises_AlignerIsArmed :
    ready.session.state ≠ .running ∧ (running .continuous .recording .marking).aligner.params.mode = .continuous ∧
      (passing.session.state = .running ∧ passing.aligner.params.mode = .segmented ∧ passing.aligner.state ≠ .disarmed) ∧
      ((running .segmented .passing .disarmed).aligner.state = .disarmed ∧
        (running .segmented .passing .disarmed).aligner.newest = some 31) := by decide
theorem test_arm :
    seen (fun t => (firstStatus .p0 t, t.aligner.state, t.aligner.armingFrame))
      (exec (.arm .p0) (asked .arm (running .segmented .passing .disarmed))) = some (0, .arming, some 32) ∧
    seen (firstStatus .p0) (exec (.arm .p0) (asked .arm passing)) = some 1 ∧
    seen (firstStatus .p0) (exec (.arm .p0) (asked .arm (running .continuous .recording .marking))) = some 11 := by
  decide +kernel

theorem test_premises_AlignerIsDisarmed :
    (running .segmented .recording .capturing).aligner.state = .capturing ∧
      (running .segmented .passing .holdoff).aligner.state = .holdoff ∧ passing.aligner.state = .armed ∧
      (running .segmented .passing .arming).aligner.state = .arming := by decide
theorem test_disarm :
    seen (fun t => (firstStatus .p0 t, t.aligner.state)) (exec (.disarm .p0) (asked .disarm passing)) = some (0, .disarmed) := by
  decide +kernel

theorem test_premises_TriggerIsForced :
    ({ ready with aligner := { Aligner.rest AlignerParams.reset with newest := some 31 } } : State).counting = false ∧
      passing.counting = true ∧ passing.aligner.newest = some 31 := by decide
theorem test_force_trigger :
    seen (fun t => (firstStatus .p0 t, fieldAt ((t.port .p0).queued 0) 18 1, fieldAt ((t.port .p0).queued 0) 40 8, t.counters.trigger.forced))
      (exec (.forceTrigger .p0) (asked .forceTrigger (running .segmented .pretrigger .armed))) = some (0, 1, 31, 1) := by
  decide +kernel

/-! ### Sessions -/

theorem test_premises_ConfigurationIsAccepted :
    passing.session.state ≠ .stopped ∧ passing.session.inProgress = none ∧
      (State.reset.session.state = .stopped ∧ ∀ n ∈ List.range 20, rawLegal.legal (n + 1) = true) ∧
      ({ rawLegal with post := 0 } : RawConfig).legal 6 = false ∧
      (∀ n ∈ List.range 5, ({ rawLegal with post := 0 } : RawConfig).legal (n + 1) = true) ∧
      ({ rawLegal with mode := 2 } : RawConfig).legal 1 = false ∧
      ({ rawLegal with startAlign := 2 } : RawConfig).legal 20 = false := by decide +kernel
theorem test_configure :
    seen (fun t => (firstStatus .p0 t, t.session.generation)) (exec (.configure .p0) (asked (.configure rawLegal) ready)) =
      some (0, 1) ∧
    seen (fun t => (firstStatus .p0 t, fieldAt ((t.port .p0).queued 0) 6 2, t.session.generation))
      (exec (.configure .p0) (asked (.configure { rawLegal with post := 0 }) ready)) = some (2, 6, 0) := by decide +kernel

theorem test_premises_SessionStarts :
    State.reset.mem.cal = .calibrating ∧ ready.session.generation = 0 ∧ ((configured ready).session.generation = 1 ∧
      (configured ready).session.state = .stopped ∧ (configured ready).session.config = some rawLegal.record) ∧
      rawLegal.record.mode = .segmented ∧ ({ rawLegal with mode := 1 } : RawConfig).record.mode = .continuous ∧
      (configured passing).session.state ≠ .stopped ∧
      (stored.convertible (entry 1 .sealed true) = true ∧ stored.convertible (entry 1 .sealed false) = false ∧
        stored.convertible (gapEntry 1) = false ∧
        (holding (some (windowed .firm 5)) none stored).convertible (entry 1 .sealed true) = false ∧
        (holding (some (windowed .yielding 5)) none stored).convertible (entry 1 .sealed true) = true) := by decide +kernel
theorem test_start :
    seen (fun t => (firstStatus .p0 t, t.session.state, t.catalog.session, t.writer.state, t.aligner.state))
      (exec (.start .p0 none) (asked (.start 1 false) (configured ready))) = some (0, .running, 1, .pretrigger, .arming) ∧
    seen (firstStatus .p0) (exec (.start .p0 none) (asked (.start 2 false) (configured ready))) = some 13 ∧
    seen (firstStatus .p0) (exec (.start .p0 none) (asked (.start 1 false) State.reset)) = some 1 := by decide +kernel
theorem test_start_discards :
    seen (fun t => (fieldAt ((t.port .p0).queued 0) 20 4, t.catalog.entries.map (fun e => e.state), (t.blocks.get 0).state))
      (exec (.start .p0 none) (asked (.start 1 true) (configured stored))) = some (1, [.lost], .free) := by decide +kernel

/-- A writer that keeps a trigger handed over. -/
def handing : State :=
  let s := running .segmented .pretrigger .armed
  { s with
    writer := { s.writer with handed := some (trigger 40) }
    aligner := { s.aligner with handOver := some { frame := 40, last := 43 } } }

theorem test_premises_SessionStops :
    (∀ w ∈ [WriterState.passing, .starved, .atCut, .pretrigger],
      let s := running .segmented w .armed
      ¬ (s.writer.params.mode = .segmented ∧
          (s.writer.state = .recording ∨ s.writer.state = .pretrigger ∧ s.writer.handed ≠ none)) ∧
        ¬ (s.writer.params.mode = .continuous)) ∧
      (recording.writer.params.mode = .continuous ∧ leadingFrames recording.intake.items ≠ [] ∧
        recording.session.stopTaken = false) ∧
      (handing.writer.params.mode = .segmented ∧ handing.writer.state = .pretrigger ∧ handing.writer.handed ≠ none ∧
        handing.aligner.handOver ≠ none ∧ handing.aligner.state = .armed) ∧
      State.reset.session.state = .stopped ∧
      (passing.session.state = .running ∧ passing.session.stopTaken = false ∧ passing.writer.state = .passing ∧
        passing.session.inProgress = none) ∧
      ((running .segmented .recording .capturing).writer.params.mode = .segmented ∧
        (running .segmented .recording .capturing).writer.state = .recording) := by decide
theorem test_stop_states :
    seen (fun t => (t.session.state, t.writer.state)) (exec (.stop .p0) (asked .stop (running .segmented .pretrigger .armed))) =
        some (.stopped, .idle) ∧
      seen (fun t => (t.session.state, t.writer.state, t.aligner.disarmAfterSeal)) (exec (.stop .p0) (asked .stop handing)) =
        some (.finishing, .pretrigger, true) ∧
      seen (fun t => (t.session.state, t.writer.state, t.intake.state)) (exec (.stop .p0) (asked .stop recording)) =
        some (.running, .recording, .closed) := by decide +kernel
theorem test_stop :
    seen (fun t => (firstStatus .p0 t, t.session.state, t.writer.state, t.intake.state)) (exec (.stop .p0) (asked .stop passing)) =
      some (0, .stopped, .idle, .idle) ∧
    seen (firstStatus .p0) (exec (.stop .p0) (asked .stop ready)) = some 1 := by decide +kernel

/-- A draining session, of which Port 0 asked the STOP. -/
def draining : State :=
  { stored with session := { Session.reset with state := .draining, drain0 := true } }

theorem test_premises_SessionAborts :
    ready.session.state = .stopped ∧ (draining.session.state = .draining ∧ draining.session.drain0 = true) ∧
      ({ draining with session := { draining.session with drain1 := true } } : State).session.drain1 = true ∧
      (recording.session.state = .running ∧ recording.mem.busy = none) ∧
      (writing 6).mem.busy = some (.writer { block := 0, addr := 6, count := 2, bytes := [1, 2, 3, 4] }) := by decide
theorem test_abort :
    seen (fun t => (firstStatus .p0 t, t.session.state, t.writer.state, t.session.totals.dropped))
      (exec (.abort .p0) (asked .abort recording)) = some (0, .stopped, .idle, 2) ∧
    seen (fun t => ((t.port .p0).entries, t.session.inProgress)) (exec (.abort .p0) (asked .abort (writing 6))) =
      some (0, some (.abort (ask .abort))) := by decide +kernel

theorem test_premises_PartIsReset :
    passing.session.state ≠ .stopped ∧
      (∃ q i, ((holding (some (windowed .firm 0)) none stored).bank q).hold i ≠ none) ∧
      (∀ i, (stored.bank0.hold i = none ∧ stored.bank1.hold i = none)) ∧
      (bound .idle ready).engine.bound = some Port.p1.other ∧ stored.engine.bound ≠ some .p1 ∧ stored.engine.issued = [] ∧
      stored.engine.ending = none ∧ stored.engine.bound = none ∧
      ((unanswered .sending).engine.bound ≠ some .p1 ∧ (unanswered .sending).engine.issued ≠ []) ∧
      ((fetching true).engine.bound ≠ some .p1 ∧ (fetching true).engine.bound ≠ none ∧ (fetching true).engine.issued = [] ∧
        ∃ b d, (fetching true).mem.busy = some (.archive b d)) :=
  ⟨by decide, ⟨.p0, 0, by decide⟩, by decide, by decide, by decide, by decide, by decide, by decide, by decide,
    by decide, by decide, by decide, ⟨_, _, rfl⟩⟩
/-- A part reset waits for a bound engine's granted burst, and ends with it (R90, R151). -/
theorem test_part_reset_waits_for_burst :
    (fetching true).engineWaits = true ∧
      seen (fun t => (t.engine.ending, t.engine.bound, t.session.inProgress, (t.port .p0).entries))
        (exec (.archiveBurstDone [])
          { fetching true with
            engine := { (fetching true).engine with ending := some (.partReset none) }
            session := (resetting none).session }) = some (none, none, none, 1) := by decide +kernel
theorem test_reset_part_refused :
    seen (firstStatus .p0) (exec (.resetPart .p0) (asked .resetPart passing)) = some 1 ∧
    seen (firstStatus .p0) (exec (.resetPart .p0) (asked .resetPart (holding (some (windowed .firm 0)) none stored))) =
      some 15 := by decide +kernel

/-! ### Counters and faults -/

/-- A part that has logged one fault in the MEMORY unit and counted one corrected granule. -/
def faulted : State :=
  { ready with
    counters := { Counters.zero with memory := { MemoryCounters.zero with corrected := 1 } }
    faults :=
      { Faults.reset with
        records := Faults.reset.records.set 1 { valid := true, overflow := false, kind := 2, detail := 0, frame := 0 } } }

theorem test_premises_CountersAndFaultsAreCleared :
    (8 ≤ 8 ∧ 8 < 9) ∧ (63 : BitVec 8).toNat < 64 ∧ 64 ≤ (64 : BitVec 8).toNat := by decide
theorem test_read_counters :
    seen (fun t => (firstStatus .p0 t, fieldAt ((t.port .p0).queued 0) 6 2, fieldAt ((t.port .p0).queued 0) 16 8, t.counters.memory.corrected))
      (exec (.readCounters .p0) (asked (.readCounters 8 true) faulted)) = some (0, 264, 1, 0) ∧
    seen (firstStatus .p0) (exec (.readCounters .p0) (asked (.readCounters 9 true) faulted)) = some 2 := by decide +kernel
theorem test_clear_faults :
    seen (fun t => (firstStatus .p0 t, (t.faults.records.get 1).valid))
      (exec (.clearFaults .p0) (asked (.clearFaults 2) faulted)) = some (0, false) ∧
    seen (fun t => (firstStatus .p0 t, (t.faults.records.get 1).valid))
      (exec (.clearFaults .p0) (asked (.clearFaults 64) faulted)) = some (2, true) := by decide +kernel
theorem test_read_faults :
    seen (fun t => (firstStatus .p0 t, (t.faults.records.get 1).valid)) (exec (.readFaults .p0) (asked .readFaults faulted)) =
      some (0, true) := by decide +kernel

theorem test_premises_FaultMaskIsSet :
    (0x1F : BitVec 8).toNat < 2 ^ 5 ∧ 2 ^ 5 ≤ (0x20 : BitVec 8).toNat ∧ (5 < 6 ∧ 6 ≤ 6) ∧
      (ask (.setFaultEnable 3 0x1F)).request = .setFaultEnable 3 0x1F := by decide
theorem test_fault_mask :
    seen (fun t => (firstStatus .p0 t, t.faults.masks.get 3)) (exec (.setFaultEnable .p0) (asked (.setFaultEnable 3 0) ready)) =
      some (0, 0) ∧
    seen (fun t => (firstStatus .p0 t, t.faults.masks.get 3)) (exec (.setFaultEnable .p0) (asked (.setFaultEnable 3 0x20) ready)) =
      some (2, 0x1F) := by decide +kernel

theorem test_premises_FaultIsReported :
    State.reset.faults.enabled .memory .calibration = true ∧ (State.reset.faults.records.get 1).valid = false ∧
      (faulted.faults.records.get FaultUnit.memory.idx).valid = true ∧
      ({ Faults.reset with masks := #v[0, 0, 0, 0, 0, 0] } : Faults).enabled .memory .calibration = false := by decide
theorem test_calibration_failure :
    seen (fun t => (t.mem.cal, (t.faults.records.get 1).kind, (t.port .p1).entries)) (exec .calibrationFailure State.reset) =
      some (.failed, 3, 1) := by decide +kernel

/-! ## Formats, timers and the host's reading -/

/-- The CRC-32 of the nine bytes 31h to 39h (R194). -/
theorem test_crc : crc32 [0x31, 0x32, 0x33, 0x34, 0x35, 0x36, 0x37, 0x38, 0x39] = 0xCBF43926 := by decide +kernel

theorem test_power_on :
    seen (fun t => (t.engine.bound, t.session.state, t.pending)) (exec .powerOn { passing with pending := [.linkUp] }) =
      some (none, .stopped, [.linkUp]) := by decide
theorem test_calibration_success :
    seen (fun t => (t.mem.cal, t.mem.cells)) (exec .calibrationSuccess { State.reset with mem := { MemService.reset with cells := [(0, 1)] } }) =
      some (.ready, []) := by decide
theorem test_refresh :
    seen (fun t => (t.mem.debt, t.mem.busy)) (exec .refreshDue ready) = some (0, some .refresh) := by decide
/-- A tenth of a microsecond on an empty queue (log entry 3). -/
theorem test_idle_step : seen (fun t => t.mem.refreshPhase) (step ready) = some 1 := by decide +kernel
theorem test_no_word_spells_a_command : decodeTableWord 8 0 = none ∧ (State.reset.withFetchWord 8 0).pending = [] := by
  decide

end Sys2Proof.Tests
end

section
/-! PROOF. The invariants: what every command and every step keeps of the catalog's numbers, and the state after
power-on. -/

namespace Sys2Proof.Proofs

open Sys2Proof.Machine Sys2Proof.Laws

/-! ## Every command -/

/-- Every command but the six that start the part, write capture memory or move a completion head keeps what `Sound`
says. -/
theorem sound_exec {c : Instr} {s t : State} (h : exec c s = .next t) (hp : c ≠ .powerOn) (hc : c ≠ .calibrationSuccess)
    (hw : ∀ ks, c ≠ .writerBurstDone ks) (hh : ∀ p v, c ≠ .completionHeadWrite p v)
    (hx : ∀ p off bs, c ≠ .controlWindowWrite p off bs) (hr : ∀ p, c ≠ .portReset p) : Sound s t := by
  cases c with
  | powerOn => exact absurd rfl hp
  | calibrationSuccess => exact absurd rfl hc
  | writerBurstDone ks => exact absurd rfl (hw ks)
  | completionHeadWrite p v => exact absurd rfl (hh p v)
  | controlWindowWrite p off bs => exact absurd rfl (hx p off bs)
  | portReset p => exact absurd rfl (hr p)
  | calibrationFailure => exact sound_calibrationFailure h
  | refreshDue => exact sound_refreshDue h
  | refreshDone => exact sound_refreshDone h
  | frameGroup => exact sound_execFrameGroup h
  | linkDown => exact sound_execLinkDown h
  | linkUp => exact sound_execLinkUp h
  | triggerMessage => exact sound_execTriggerMessage h
  | writerTakeItem => exact sound_execWriterTakeItem h
  | waitingRequestOffer => exact sound_execWaitingRequestOffer h
  | entryStart => exact sound_execEntryStart h
  | archiveBurstDone => exact sound_execArchiveBurstDone h
  | archiveWriteAck => exact sound_execArchiveWriteAck h
  | linkWriteError => exact sound_execLinkWriteError h
  | flushTimerExpiry => exact sound_execFlushTimerExpiry h
  | windowRead => exact sound_execWindowRead h
  | windowReadBurstDone => exact sound_execWindowReadBurstDone h
  | readTimeout => exact sound_execReadTimeout h
  | apertureWrite => exact sound_execApertureWrite h
  | holdExpiry => exact sound_execHoldExpiry h
  | requestTake => exact sound_execRequestTake h
  | requestTailWrite => exact sound_execRequestTailWrite h
  | portControlWrite => exact sound_execPortControlWrite h
  | portStatusWrite => exact sound_execPortStatusWrite h
  | interruptWriteError => exact sound_execInterruptWriteError h
  | describe => exact sound_execDescribe h
  | querySpan => exact sound_execQuerySpan h
  | queryRecord => exact sound_execQueryRecord h
  | queryMarks => exact sound_execQueryMarks h
  | placeHold => exact sound_execPlaceHold h
  | renewHold => exact sound_execRenewHold h
  | releaseHold => exact sound_execReleaseHold h
  | queryHolds => exact sound_execQueryHolds h
  | bindArchive => exact sound_execBindArchive h
  | unbindArchive => exact sound_execUnbindArchive h
  | supplyBuffer => exact sound_execSupplyBuffer h
  | arm => exact sound_execArm h
  | disarm => exact sound_execDisarm h
  | forceTrigger => exact sound_execForceTrigger h
  | configure => exact sound_execConfigure h
  | start => exact sound_execStart h
  | stop => exact sound_execStop h
  | abort => exact sound_execAbort h
  | resetPart => exact sound_execResetPart h
  | readCounters => exact sound_execReadCounters h
  | readFaults => exact sound_execReadFaults h
  | clearFaults => exact sound_execClearFaults h
  | setFaultEnable => exact sound_execSetFaultEnable h

/-! ## The catalog's numbers -/

theorem numbered_powerOn {s t : State} (h : execPowerOn s = .next t) : t.catalog.Numbered := by
  unfold execPowerOn at h
  injection h with h
  rw [← h]
  exact reset_numbered

theorem numbered_calibrationSuccess {s t : State} (h : execCalibrationSuccess s = .next t) (hn : s.catalog.Numbered) :
    t.catalog.Numbered := by
  obtain rfl | k := execCalibrationSuccess_next h
  · exact hn
  · exact k.numbered hn

theorem numbered_writerBurstDone {ks : List Strike} {s t : State} (h : execWriterBurstDone ks s = .next t)
    (hn : s.catalog.Numbered) : t.catalog.Numbered := by
  obtain rfl | ⟨b, -, k⟩ := execWriterBurstDone_next h
  · exact hn
  · exact k.numbered hn

/-- Every command keeps the catalog's numbering (R1, R2). -/
theorem numbered_exec {c : Instr} {s t : State} (h : exec c s = .next t) (hn : s.catalog.Numbered) :
    t.catalog.Numbered := by
  cases c with
  | powerOn => exact numbered_powerOn h
  | calibrationSuccess => exact numbered_calibrationSuccess h hn
  | writerBurstDone ks => exact numbered_writerBurstDone h hn
  | completionHeadWrite p v => exact (base_execCompletionHeadWrite h).numbered hn
  | controlWindowWrite p off bs => exact (base_execControlWindowWrite h).numbered hn
  | portReset p => exact (base_execPortReset h).numbered hn
  | _ => exact (sound_exec h (by simp) (by simp) (by simp) (by simp) (by simp) (by simp)).numbered hn

/-- Settles O5: a tick and every command keep the numbering, and a step is one of the two. -/
theorem catalogStaysNumbered : Obligations.CatalogStaysNumbered := by
  unfold Obligations.CatalogStaysNumbered
  intro s t hn h
  unfold step at h
  split at h
  · exact (next_of h (sound_tick s)).numbered hn
  · exact numbered_exec h hn

/-! ## Power-on -/

/-- Settles O6. -/
theorem invariantsHoldAtReset : Obligations.InvariantsHoldAtReset :=
  ⟨(rfl : Memory.wf [] = true), Nat.zero_le 9, reset_numbered⟩

/-- POWER_ON gives the state after reset; the commands that wait and the count of free values stay. -/
theorem exec_powerOn (s : State) :
    exec .powerOn s = .next { State.reset with pending := s.pending, freeCount := s.freeCount } := rfl

theorem natsFrom_zero (n : Nat) : natsFrom 0 n = List.range n := by simp [natsFrom_range]

/-- The free list holds every block in ascending order (R29). -/
theorem free_reset : BlockMap.reset.free = List.range 8192 :=
  calc BlockMap.reset.free = natsFrom 0 8192 := rfl
    _ = List.range 8192 := natsFrom_zero 8192

theorem hold_reset (i : Fin 16) : HoldBank.reset.hold i = none := Vector.getElem_replicate i.isLt

theorem faultRecord_reset (u : Fin 6) : Faults.reset.records.get u = FaultRecord.clear := Vector.getElem_replicate u.isLt

/-- Settles O9: the next state is the one after reset, read block by block. -/
theorem powerOnResetsEveryBlock : Obligations.PowerOnResetsEveryBlock := by
  unfold Obligations.PowerOnResetsEveryBlock
  intro s
  refine ⟨_, exec_powerOn s, rfl, rfl, rfl, rfl, fun b hb => block_reset hb, free_reset, rfl, rfl, ?banks, ?_⟩
  case banks => rintro (_ | _) <;> exact ⟨hold_reset, rfl, rfl⟩
  refine ⟨rfl, rfl, rfl, rfl, rfl, rfl, rfl, rfl, rfl, rfl, rfl, rfl, ?writer⟩
  case writer =>
  refine ⟨rfl, rfl, rfl, rfl, rfl, rfl, rfl, rfl, ?aligner⟩
  case aligner =>
  refine ⟨rfl, rfl, rfl, rfl, rfl, rfl, ?intake⟩
  case intake =>
  refine ⟨rfl, rfl, rfl, rfl, rfl, rfl, rfl, ?memory⟩
  case memory =>
  refine ⟨rfl, rfl, rfl, rfl, rfl, ?session⟩
  case session =>
  refine ⟨rfl, rfl, rfl, rfl, rfl, rfl, rfl, rfl, ?ports⟩
  case ports => exact ⟨by rintro (_ | _) <;> rfl, rfl, faultRecord_reset, rfl, rfl, rfl⟩

end Sys2Proof.Proofs
end

section
/-! PROOF. The queries: DESCRIBE, QUERY_SPAN, READ_FAULTS, QUERY_HOLDS, QUERY_RECORD and QUERY_MARKS answer at once and
change nothing. -/

namespace Sys2Proof.Proofs

open Sys2Proof.Machine Sys2Proof.Laws

/-- A query's state `t`: nothing but port units differs from `s` without the oldest request of this code. -/
def QueryLeaves (s t : State) (p : Port) (code : Nat) : Prop :=
  SameBlocks (s.without p code) t ∧ t.counters = s.counters ∧ t.faults = s.faults

theorem queryLeaves_answer (s : State) (p : Port) (code : Nat) (r : Passed) (st : Status) (d : Nat) (pay : List Field) :
    QueryLeaves s (answer r st d pay (s.without p code)) p code :=
  ⟨sameBlocks_answer _ _ _ _ _, answer_counters _ _ _ _ _, answer_faults _ _ _ _ _⟩

/-- A waiting request that has left the passed requests is answered at its port. -/
theorem replied_without {s : State} {p : Port} {code : Nat} {r : Passed} (h : Waits s p code r) (st : Status) (d : Nat)
    (pay : List Field) : Replied s (answer r st d pay (s.without p code)) r st d pay :=
  replied_answer h.live st d pay (without_port s p · code)

/-! ## The queries' answers -/

theorem exec_describe {s : State} {p : Port} {r : Passed} (h : Waits s p 0x01 r) :
    exec (.describe p) s = .next (answer r .ok 0 (describePayload s) (s.without p 0x01)) := by
  show execDescribe p s = _
  unfold execDescribe
  rw [takePassed_of h.oldest]
  rfl

theorem exec_querySpan {s : State} {p : Port} {r : Passed} (h : Waits s p 0x02 r) :
    exec (.querySpan p) s = .next (answer r .ok 0 (spanPayload s) (s.without p 0x02)) := by
  show execQuerySpan p s = _
  unfold execQuerySpan
  rw [takePassed_of h.oldest]
  rfl

theorem exec_readFaults {s : State} {p : Port} {r : Passed} (h : Waits s p 0x29 r) :
    exec (.readFaults p) s =
      .next
        (answer r .ok 0
          (recordFields (fun u => s.faults.records.get u) ++
            unitNumbers.map (fun u => ⟨102 + u.val, 1, (s.faults.masks.get u).toNat⟩)) (s.without p 0x29)) := by
  show execReadFaults p s = _
  unfold execReadFaults
  rw [takePassed_of h.oldest]
  rfl

@[simp] theorem without_bank (s : State) (p q : Port) (code : Nat) : (s.without p code).bank q = s.bank q := by
  cases q <;> rfl

theorem exec_queryHolds {s : State} {p : Port} {r : Passed} {upper : Bool} (h : Waits s p 0x0B r)
    (hr : r.request = .queryHolds upper) :
    exec (.queryHolds p) s =
      .next (answer r .ok (s.bank p).tagCounter.toNat (groupPayload (s.bank p) upper) (s.without p 0x0B)) := by
  show execQueryHolds p s = _
  unfold execQueryHolds
  rw [takePassed_of h.oldest]
  dsimp only
  rw [hr]
  show Host.Outcome.next (queryHolds r upper (s.without p 0x0B)) = _
  unfold queryHolds
  rw [(Waits.port h).1, without_bank]

theorem exec_queryRecord {s : State} {p : Port} {r : Passed} {n : Nat} (h : Waits s p 0x03 r)
    (hr : r.request = .queryRecord n) :
    exec (.queryRecord p) s = .next (queryEntry r n Entry.descriptorFields (s.without p 0x03)) := by
  show execQueryRecord p s = _
  unfold execQueryRecord
  rw [takePassed_of h.oldest]
  dsimp only
  rw [hr]

theorem exec_queryMarks {s : State} {p : Port} {r : Passed} {n : Nat} (h : Waits s p 0x04 r)
    (hr : r.request = .queryMarks n) :
    exec (.queryMarks p) s = .next (queryEntry r n marksPayload (s.without p 0x04)) := by
  show execQueryMarks p s = _
  unfold execQueryMarks
  rw [takePassed_of h.oldest]
  dsimp only
  rw [hr]

/-- Settles O41: each of the four is one answer to the request that waits. -/
theorem queriesAnswerAndChangeNothing : Obligations.QueriesAnswerAndChangeNothing := by
  unfold Obligations.QueriesAnswerAndChangeNothing
  intro p s r
  refine ⟨fun h => ?describe, fun h => ?span, fun h => ?faults, fun h upper hr => ?holds⟩
  case describe => exact ⟨_, exec_describe h, replied_without h _ _ _, queryLeaves_answer _ _ _ _ _ _ _⟩
  case span => exact ⟨_, exec_querySpan h, replied_without h _ _ _, queryLeaves_answer _ _ _ _ _ _ _⟩
  case faults => exact ⟨_, exec_readFaults h, replied_without h _ _ _, queryLeaves_answer _ _ _ _ _ _ _⟩
  case holds => exact ⟨_, exec_queryHolds h hr, replied_without h _ _ _, queryLeaves_answer _ _ _ _ _ _ _⟩

/-! ## The checks of a record number (R21) -/

theorem queryStatus_reserved {n : Nat} (c : Catalog) (h : n = 0 ∨ n = 4294967295) : queryStatus n c = .range :=
  if_pos h

/-- A number that is neither 0 nor FFFFFFFFh is compared with the head and the tail. -/
theorem queryStatus_valid {n : Nat} (c : Catalog) (h1 : 1 ≤ n) (h2 : n < 4294967295) :
    queryStatus n c = if n < c.head then .gone else if c.tail < n then .range else .ok :=
  if_neg (by unfold Config.lastRecordNumber; omega)

/-- A number that the checks refuse is answered with their status. -/
theorem queryEntry_refused {r : Passed} {n : Nat} {pay : Entry → List Field} {s : State} {st : Status}
    (h : queryStatus n s.catalog = st) (hst : st ≠ .ok) : queryEntry r n pay s = answer r st 0 [] s := by
  unfold queryEntry
  split
  · next ok _ => exact absurd (h.symm.trans ok) hst
  · rw [h]

theorem queryEntry_found {r : Passed} {n : Nat} {pay : Entry → List Field} {s : State} {e : Entry}
    (h : queryStatus n s.catalog = .ok) (he : s.catalog.find n = some e) :
    queryEntry r n pay s = answer r .ok 0 (pay e) s := by
  unfold queryEntry
  rw [h, he]

/-- A query about a record is one answer, whatever the checks say. -/
theorem queryEntry_answers (r : Passed) (n : Nat) (pay : Entry → List Field) (s : State) :
    ∃ st out, queryEntry r n pay s = answer r st 0 out s := by
  unfold queryEntry
  split <;> exact ⟨_, _, rfl⟩

/-- The answers of R21, in the order of its checks, to the query of number `n` that shows an entry as `pay` gives it. -/
def RecordAnswered (s t : State) (r : Passed) (n : Nat) (pay : Entry → List Field) : Prop :=
  ((n = 0 ∨ n = 4294967295) → Replied s t r .range 0 []) ∧
    (1 ≤ n → n < 4294967295 → n < s.catalog.head → Replied s t r .gone 0 []) ∧
    (1 ≤ n → n < 4294967295 → s.catalog.head ≤ n → s.catalog.tail < n → Replied s t r .range 0 []) ∧
    (∀ e, 1 ≤ n → n < 4294967295 → s.catalog.head ≤ n → n ≤ s.catalog.tail → s.catalog.find n = some e →
      Replied s t r .ok 0 (pay e))

theorem recordAnswered_queryEntry {s : State} {p : Port} {code : Nat} {r : Passed} (h : Waits s p code r) (n : Nat)
    (pay : Entry → List Field) : RecordAnswered s (queryEntry r n pay (s.without p code)) r n pay := by
  have refused : ∀ {st : Status}, queryStatus n s.catalog = st → st ≠ .ok →
      Replied s (queryEntry r n pay (s.without p code)) r st 0 [] := by
    intro st hq hst
    rw [queryEntry_refused (s := s.without p code) hq hst]
    exact replied_without h _ _ _
  refine ⟨fun hn => ?reserved, fun h1 h2 hh => ?gone, fun h1 h2 hh ht => ?above, fun e h1 h2 hh ht he => ?found⟩
  case reserved => exact refused (queryStatus_reserved _ hn) (by simp)
  case gone => exact refused (by rw [queryStatus_valid _ h1 h2, if_pos hh]) (by simp)
  case above => exact refused (by rw [queryStatus_valid _ h1 h2, if_neg (Nat.not_lt.mpr hh), if_pos ht]) (by simp)
  case found =>
    have ok : queryStatus n s.catalog = .ok := by
      rw [queryStatus_valid _ h1 h2, if_neg (Nat.not_lt.mpr hh), if_neg (Nat.not_lt.mpr ht)]
    rw [queryEntry_found (s := s.without p code) ok he]
    exact replied_without h _ _ _

theorem queryLeaves_queryEntry (s : State) (p : Port) (code : Nat) (r : Passed) (n : Nat) (pay : Entry → List Field) :
    QueryLeaves s (queryEntry r n pay (s.without p code)) p code := by
  obtain ⟨st, out, e⟩ := queryEntry_answers r n pay (s.without p code)
  rw [e]
  exact queryLeaves_answer _ _ _ _ _ _ _

/-- What a query about a record leaves, and what it answers. -/
theorem queryEntry_spec {s : State} {p : Port} {code : Nat} {r : Passed} (h : Waits s p code r) (n : Nat)
    (pay : Entry → List Field) :
    SameBlocks (s.without p code) (queryEntry r n pay (s.without p code)) ∧
      (queryEntry r n pay (s.without p code)).counters = s.counters ∧
      (queryEntry r n pay (s.without p code)).faults = s.faults ∧
      RecordAnswered s (queryEntry r n pay (s.without p code)) r n pay := by
  obtain ⟨blocks, counters, faults⟩ := queryLeaves_queryEntry s p code r n pay
  exact ⟨blocks, counters, faults, recordAnswered_queryEntry h n pay⟩

/-- Settles O42: both requests are the same query, which shows the entry by its descriptor or by its marks. -/
theorem recordQueriesAnswer : Obligations.RecordQueriesAnswer := by
  unfold Obligations.RecordQueriesAnswer
  intro p s r n
  exact ⟨fun h hr => ⟨_, exec_queryRecord h hr, queryEntry_spec h n _⟩,
    fun h hr => ⟨_, exec_queryMarks h hr, queryEntry_spec h n _⟩⟩

end Sys2Proof.Proofs
end

section
/-! PROOF. ARCHIVE_BURST_DONE: the data of a completed burst joins the DATA frame in production, and a damaged record is
marked. -/

namespace Sys2Proof.Proofs

open Sys2Proof.Machine Sys2Proof.Laws

/-! ## A change of one entry -/

/-- The entry of number `n` after a change of it. -/
theorem find_updateEntry {f : Entry → Entry} (hf : ∀ e, (f e).number = e.number) (n : Nat) (s : State) :
    (updateEntry n f s).catalog.find n = (s.catalog.find n).map f := by
  show (s.catalog.entries.map _).find? _ = (s.catalog.entries.find? _).map f
  rw [List.find?_map]
  have same : (fun e : Entry => decide (e.number = n)) ∘ (fun e => if e.number = n then f e else e) =
      fun e => decide (e.number = n) := by
    funext e
    by_cases h : e.number = n <;> simp [h, hf]
  rw [same]
  cases he : s.catalog.entries.find? (fun e => decide (e.number = n)) with
  | none => rfl
  | some e =>
    have hn : e.number = n := by simpa using List.find?_some he
    simp [hn]

theorem data?_mapData (f : DataFields → DataFields) (e : Entry) : (e.mapData f).data? = e.data?.map f := by
  unfold Entry.mapData Entry.data?
  cases h : e.body <;> simp [h]

/-! ## Notes of damage (R10, R80) -/

/-- The record at the send position, if the catalog holds one, is marked DAMAGED. -/
def SentDamaged (s : State) : Prop :=
  ∀ e x, s.catalog.find s.engine.sendPos = some e → e.data? = some x → x.damaged = true

theorem noteDamage_catalog (s : State) (g : Nat) :
    (noteDamage s g).catalog =
      (updateEntry s.engine.sendPos (Entry.mapData (fun d => { d with damaged := true })) s).catalog := by
  unfold noteDamage damageEntry
  rw [if_pos rfl]
  dsimp only
  split <;> rfl

theorem sentDamaged_noteDamage (s : State) (g : Nat) : SentDamaged (noteDamage s g) := by
  intro e x he hx
  rw [(damageNoted_noteDamage s g).sp, noteDamage_catalog, find_updateEntry (mapData_number _)] at he
  obtain ⟨e0, -, rfl⟩ := Option.map_eq_some_iff.mp he
  rw [data?_mapData] at hx
  obtain ⟨x0, -, rfl⟩ := Option.map_eq_some_iff.mp hx
  rfl

/-- The last of several notes marks the record. -/
theorem sentDamaged_notes {l : List Nat} (h : l ≠ []) (s : State) : SentDamaged (l.foldl noteDamage s) := by
  obtain ⟨init, g, rfl⟩ := (List.eq_nil_or_concat' l).resolve_left h
  rw [List.foldl_concat]
  exact sentDamaged_noteDamage _ g

theorem noteDamage_ending (s : State) (g : Nat) : (noteDamage s g).engine.ending = s.engine.ending := by
  have k := (granulesReported_ent (ent_damageEntry s.engine.sendPos s.catalog.epoch s)).eng
  unfold noteDamage
  dsimp only
  split
  · rw [k]
  · show (damageEntry _ _ s).engine.ending = _
    rw [k]

theorem notes_ending : ∀ (l : List Nat) (s : State), (l.foldl noteDamage s).engine.ending = s.engine.ending
  | [], _ => rfl
  | g :: l, s => (notes_ending l (noteDamage s g)).trans (noteDamage_ending s g)

/-! ## The data of a burst -/

/-- The DATA frame in production with the data of a burst. -/
def joinFrame (f : DataFrame) (r : ReadResult) : DataFrame := { f with got := f.got ++ r.data }

theorem takeArchiveData_eq {r : ReadResult} {s : State} {f : DataFrame} (h : s.engine.progress.frame = some f) :
    takeArchiveData r s = r.bad.foldl noteDamage (setFrame (some (joinFrame f r)) s) := by
  unfold takeArchiveData
  rw [h]
  rfl

theorem takeArchiveData_noted {r : ReadResult} {s : State} {f : DataFrame} (h : s.engine.progress.frame = some f) :
    DamageNoted (setFrame (some (joinFrame f r)) s) (takeArchiveData r s) := by
  rw [takeArchiveData_eq h]
  exact damageNoted_fold _ _

theorem takeArchiveData_damages {r : ReadResult} {s : State} {f : DataFrame} (h : s.engine.progress.frame = some f)
    (hb : r.bad ≠ []) : SentDamaged (takeArchiveData r s) := by
  rw [takeArchiveData_eq h]
  exact sentDamaged_notes hb _

theorem takeArchiveData_ending (r : ReadResult) (s : State) :
    (takeArchiveData r s).engine.ending = s.engine.ending := by
  unfold takeArchiveData
  split
  · rfl
  · rw [notes_ending]; rfl

/-! ## The completion of a burst -/

/-- The state in which the engine has taken a completed burst, or discarded it, before it goes on. -/
def burstTaken (discard : Bool) (r : ReadResult) (s : State) : State :=
  if discard then readEffects r (arbitrate (releaseGrant s))
  else takeArchiveData r (readEffects r (arbitrate (releaseGrant s)))

theorem archiveBurstDone_eq (discard : Bool) (r : ReadResult) (s : State) :
    archiveBurstDone discard r s =
      if (burstTaken discard r s).engine.ending.isSome then endWait (burstTaken discard r s)
      else engineEvent (burstTaken discard r s) := rfl

/-- The memory service's own part of a completion: the next grant, the count of corrected granules and an offer to the
writer, with the engine as it was. -/
theorem readEffects_granted (r : ReadResult) (s : State) :
    (readEffects r (arbitrate (releaseGrant s))).mem = (arbitrate (releaseGrant s)).mem ∧
      (readEffects r (arbitrate (releaseGrant s))).engine = s.engine ∧
      (readEffects r (arbitrate (releaseGrant s))).counters.memory.corrected =
        sat s.counters.memory.corrected r.corrected ∧
      (readEffects r (arbitrate (releaseGrant s))).writer =
        { s.writer with offered := (readEffects r (arbitrate (releaseGrant s))).writer.offered } := by
  have k := readEffects_fields r (arbitrate (releaseGrant s))
  rw [arbitrate_eq (releaseGrant s)] at k ⊢
  exact k

/-- What a completed burst has left when the engine goes on (R79, R80, R10), with frame `f` in production. -/
structure BurstTaken (f : DataFrame) (discard : Bool) (r : ReadResult) (s u : State) : Prop where
  joins : discard = false → u.engine.progress.frame = some (joinFrame f r)
  damages : discard = false → r.bad ≠ [] → SentDamaged u
  discarded : discard = true → u.engine = s.engine
  mem : u.mem = (arbitrate (releaseGrant s)).mem
  issued : u.engine.issued = s.engine.issued
  sendPos : u.engine.sendPos = s.engine.sendPos
  ending : u.engine.ending = s.engine.ending
  corrected : u.counters.memory.corrected = sat s.counters.memory.corrected r.corrected
  writer : u.writer = { s.writer with offered := u.writer.offered }

theorem burstTaken_spec {f : DataFrame} (discard : Bool) (r : ReadResult) {s : State}
    (hf : s.engine.progress.frame = some f) : BurstTaken f discard r s (burstTaken discard r s) := by
  obtain ⟨mem, engine, corrected, writer⟩ := readEffects_granted r s
  unfold burstTaken
  generalize readEffects r (arbitrate (releaseGrant s)) = x at mem engine corrected writer ⊢
  have issued : x.engine.issued = s.engine.issued := by rw [engine]
  have sendPos : x.engine.sendPos = s.engine.sendPos := by rw [engine]
  have ending : x.engine.ending = s.engine.ending := by rw [engine]
  cases discard with
  | true => exact ⟨by simp, by simp, fun _ => engine, mem, issued, sendPos, ending, corrected, writer⟩
  | false =>
    have hx : x.engine.progress.frame = some f := by rw [engine, hf]
    have noted := takeArchiveData_noted (r := r) hx
    have writerKept := writer_of_offered (noted.wr.trans (congrArg (fun w => { w with offered := false }) writer))
    exact ⟨fun _ => noted.fr, fun _ => takeArchiveData_damages hx, by simp, noted.mem.trans mem,
      noted.iss.trans issued, noted.sp.trans sendPos, (takeArchiveData_ending r x).trans ending,
      noted.cor.trans corrected, writerKept⟩

theorem BurstTaken.cells {f : DataFrame} {d : Bool} {r : ReadResult} {s u : State} (h : BurstTaken f d r s u) :
    u.mem.cells = s.mem.cells := by
  rw [h.mem]
  exact (granted_arbitrate (releaseGrant s)).cells

theorem exec_archiveBurstDone {s : State} {b : ArchiveBurst} {d : Bool} (ks : List Strike)
    (hb : s.mem.busy = some (.archive b d)) (hc : b.addr + b.len ≤ 34359738368) :
    exec (.archiveBurstDone ks) s =
      .next (archiveBurstDone d ((strikeAll ks s).mem.readBurst b.addr b.len) (strikeAll ks s)) := by
  have inside : inCapture b.addr b.len = true := decide_eq_true hc
  show execArchiveBurstDone ks s = _
  unfold execArchiveBurstDone
  rw [hb]
  dsimp only
  rw [if_pos inside]

/-- With nothing ending the engine goes on. -/
theorem archiveBurstDone_runs {d : Bool} {r : ReadResult} {s : State}
    (h : (burstTaken d r s).engine.ending = none) : archiveBurstDone d r s = engineEvent (burstTaken d r s) := by
  rw [archiveBurstDone_eq, h]
  rfl

/-- While an UNBIND_ARCHIVE waits for writes nothing follows. -/
theorem archiveBurstDone_waits {d : Bool} {r : ReadResult} {s : State} {q : Passed}
    (h : (burstTaken d r s).engine.ending = some (.unbind q)) (hi : (burstTaken d r s).engine.issued ≠ []) :
    archiveBurstDone d r s = burstTaken d r s := by
  have waits : (burstTaken d r s).engine.issued.isEmpty = false := by simpa using hi
  rw [archiveBurstDone_eq, h]
  show endWait (burstTaken d r s) = _
  unfold endWait
  rw [h]
  dsimp only
  rw [waits]
  rfl

/-- Everything that the engine, a DRAIN_DONE and the arbiter do after a state. -/
theorem followedByEngine (u : State) : FollowedByEngine u (engineEvent u) :=
  ⟨rfl, (eng_engineEvent u).view, (eng_engineEvent u).ports⟩

/-- Settles O24: the state in which the burst has been taken is the one the engine goes on from, or the answer. -/
theorem archiveBurstJoinsFrame : Obligations.ArchiveBurstJoinsFrame := by
  unfold Obligations.ArchiveBurstJoinsFrame
  intro s b f d ks hb hf hc r joined served
  have taken : BurstTaken f d r (strikeAll ks s) (burstTaken d r (strikeAll ks s)) := burstTaken_spec d r hf
  have run := exec_archiveBurstDone ks hb hc
  generalize hu : burstTaken d r (strikeAll ks s) = u at taken
  have sendPos : u.engine.sendPos = s.engine.sendPos := taken.sendPos
  have hj : joined u :=
    ⟨fun hd => ⟨taken.joins hd, fun hbad => by rw [← sendPos]; exact taken.damages hd hbad⟩,
      taken.discarded, taken.mem, taken.issued, sendPos, taken.writer⟩
  have hs : served u := ⟨taken.corrected, taken.cells⟩
  refine ⟨fun he => ?goesOn, fun q he hi => ?waits⟩
  case goesOn =>
    refine ⟨u, engineEvent u, ?_, followedByEngine u, hj, ?_⟩
    · rw [run, archiveBurstDone_runs (hu ▸ taken.ending.trans he), hu]
    · obtain ⟨corrected, cells⟩ := eng_corrected (eng_engineEvent u)
      exact ⟨corrected.trans hs.1, cells.trans hs.2⟩
  case waits =>
    refine ⟨u, ?_, hj, hs⟩
    rw [run, archiveBurstDone_waits (hu ▸ taken.ending.trans he) (hu ▸ taken.issued ▸ hi), hu]

end Sys2Proof.Proofs
end

section
/-! PROOF. HOLD_EXPIRY and WAITING_REQUEST_OFFER: a hold that ends, and the block that ends a starvation. -/

namespace Sys2Proof.Proofs

open Sys2Proof.Machine Sys2Proof.Laws

/-! ## The expiry of a hold (R46, R52) -/

theorem exec_holdExpiry (p : Port) (i : Fin 16) (s : State) :
    exec (.holdExpiry p i) s = .next (expireHold p i s) := rfl

/-- The payload of HOLD_EXPIRED (R52). -/
def expiredPayload (i : Fin 16) (h : Hold) : List Field := [⟨0, 1, i.val⟩, ⟨2, 2, h.tag.toNat⟩]

/-- The state in which a hold has ended and been counted, before its port is told. -/
def holdEnded (p : Port) (i : Fin 16) (s : State) : State :=
  countHolds (fun c => { c with expired := sat c.expired 1 }) (freeHold p i s)

theorem expireHold_active {p : Port} {i : Fin 16} {s : State} {h : Hold} (hh : (s.bank p).hold i = some h)
    (hi : h.interval ≠ 0) :
    expireHold p i s = notify p .holdExpired (expiredPayload i h) (holdEnded p i s) := by
  unfold expireHold
  rw [hh]
  exact if_neg hi

theorem expireHold_free {p : Port} {i : Fin 16} {s : State} (h : (s.bank p).hold i = none) :
    expireHold p i s = s := by
  unfold expireHold
  rw [h]

theorem expireHold_untimed {p : Port} {i : Fin 16} {s : State} {h : Hold} (hh : (s.bank p).hold i = some h)
    (hi : h.interval = 0) : expireHold p i s = s := by
  unfold expireHold
  rw [hh]
  exact if_pos hi

theorem holdEnded_eq {p : Port} {i : Fin 16} {s : State} {h : Hold} (hh : (s.bank p).hold i = some h) :
    ∃ w : Writer,
      holdEnded p i s =
        countHolds (fun c => { c with expired := sat c.expired 1 })
          { s.setBank p ((s.bank p).setSlot i none) with writer := w } ∧
        (s.writer.state = .starved → s.writer.waiting = some .takeBlock → w.offered = true) := by
  obtain ⟨w, freed, offered⟩ := freeHold_fields p i s h hh
  exact ⟨w, by unfold holdEnded; rw [freed], offered⟩

/-- What the end of a hold sets and leaves, the port units included. -/
structure HoldEnded (p : Port) (i : Fin 16) (s t : State) : Prop where
  bank : t.bank p = (s.bank p).setSlot i none
  otherBank : t.bank p.other = s.bank p.other
  counted : t.counters.holds = { s.counters.holds with expired := sat s.counters.holds.expired 1 }
  offered : s.writer.state = .starved → s.writer.waiting = some .takeBlock → t.writer.offered = true
  mem : t.mem = s.mem
  catalog : t.catalog = s.catalog
  blocks : t.blocks = s.blocks
  faults : t.faults = s.faults
  ports : ∀ q, t.port q = s.port q

theorem holdEnded_spec {p : Port} {i : Fin 16} {s : State} {h : Hold} (hh : (s.bank p).hold i = some h) :
    HoldEnded p i s (holdEnded p i s) := by
  obtain ⟨w, e, offered⟩ := holdEnded_eq hh
  rw [e]
  cases p with
  | p0 => exact ⟨rfl, rfl, rfl, offered, rfl, rfl, rfl, rfl, fun q => by cases q <;> rfl⟩
  | p1 => exact ⟨rfl, rfl, rfl, offered, rfl, rfl, rfl, rfl, fun q => by cases q <;> rfl⟩

theorem port_other_ne (p : Port) : p.other ≠ p := by cases p <;> simp [Port.other]

/-- Settles O34: an ACTIVE slot with a timer ends and its port is told; any other slot has nothing to expire. -/
theorem holdExpires : Obligations.HoldExpires := by
  unfold Obligations.HoldExpires
  intro p i s
  refine ⟨fun h hh hi => ?expires, fun hn => ?nothing⟩
  case expires =>
    have ended := holdEnded_spec hh
    refine ⟨_, by rw [exec_holdExpiry, expireHold_active hh hi], ?_⟩
    generalize holdEnded p i s = u at ended
    have told := notified_notify p .holdExpired (expiredPayload i h) u
    have same := sameBlocks_notify p .holdExpired (expiredPayload i h) u
    have others := notify_otherPort .holdExpired (expiredPayload i h) u (port_other_ne p)
    have counts := notify_holdCounters p .holdExpired (expiredPayload i h) u
    have faults := notify_faults p .holdExpired (expiredPayload i h) u
    generalize notify p .holdExpired (expiredPayload i h) u = t at *
    obtain ⟨catalog, blocks, bank0, bank1, -, writer, -, -, mem, -⟩ := sameBlocks_iff.mp same
    have bank := bank_of bank0 bank1
    have slots : t.bank p = (s.bank p).setSlot i none := (bank p).trans ended.bank
    refine ⟨by rw [slots, setSlot_hold, if_pos rfl], fun j hj => by rw [slots, setSlot_hold, if_neg hj],
      by rw [slots]; rfl, by rw [slots]; rfl, (bank _).trans ended.otherBank, counts.trans ended.counted,
      notified_congr told (ended.ports p).symm rfl rfl, fun hs hw => writer ▸ ended.offered hs hw,
      mem.trans ended.mem, catalog.trans ended.catalog, blocks.trans ended.blocks, faults.trans ended.faults,
      others.trans (ended.ports _)⟩
  case nothing =>
    rw [exec_holdExpiry]
    rcases hn with hn | ⟨h, hh, hi⟩
    · rw [expireHold_free hn]
    · rw [expireHold_untimed hh hi]

/-! ## A block taken from the free list (R31, R35) -/

theorem reclaimLoop_free {s : State} {b : Nat} {rest : List Nat} (h : s.blocks.free = b :: rest) (isRepeat : Bool)
    (n : Nat) : reclaimLoop isRepeat n s = s := by
  cases n with
  | zero => rfl
  | succ n =>
    unfold reclaimLoop
    rw [h]

/-- With a block free and the chain's last block not FILLING, a take-block request is served without reclaim. -/
theorem takeBlock_free {s : State} {b : Nat} {rest : List Nat} {last : Option Nat} (h : s.blocks.free = b :: rest)
    (hl : ∀ l, last = some l → (s.blocks.get l).state ≠ .filling) (owner : Option Nat) (isRepeat : Bool) :
    takeBlock owner last isRepeat s = serveBlock owner last s := by
  unfold takeBlock
  rw [reclaimLoop_free h]
  cases last with
  | none => rfl
  | some l => exact if_neg (hl l rfl)

/-- A served block, as it stands in its chain (R31). -/
def servedBlock (owner : Option Nat) (k : Block) : Block :=
  { k with state := .filling, next := none, owner := owner, held := 0 }

/-- The block at the head of the free list joins the chain behind another block; only the block map changes. -/
theorem serveBlock_free {s : State} {b : Nat} {rest : List Nat} {last : Option Nat} (h : s.blocks.free = b :: rest)
    (hb : b < 8192) (hl : ∀ l, last = some l → l ≠ b) (owner : Option Nat) :
    ∃ m, serveBlock owner last s = (.served b, { s with blocks := m }) ∧ m.free = rest ∧
      m.get b = servedBlock owner (s.blocks.get b) := by
  unfold serveBlock
  rw [h]
  cases last with
  | none =>
    exact ⟨({ s.blocks with free := rest } : BlockMap).modify b (servedBlock owner), rfl, blockModify_free _ _ _,
      blockGet_modify_self _ b _ hb⟩
  | some l =>
    refine ⟨(({ s.blocks with free := rest } : BlockMap).modify b (servedBlock owner)).modify l
        (fun k => { k with next := some b }), rfl, ?free, ?block⟩
    case free => rw [blockModify_free, blockModify_free]
    case block => exact (blockGet_modify_ne _ l b _ (hl l rfl)).trans (blockGet_modify_self _ b _ hb)

theorem requestBlock_served {s t : State} {b : Nat} {isRepeat : Bool}
    (h : takeBlock s.writer.openRec s.writer.chainLast isRepeat s = (.served b, t)) :
    requestBlock isRepeat s = (true, gotBlock b t) := by
  unfold requestBlock
  rw [h]

/-! ## The end of a starvation (R35, R100) -/

/-- The offer that the writer takes up is no longer made. -/
def offerTaken (s : State) : State := setWriter (fun w => { w with offered := false }) s

theorem exec_waitingRequestOffer {s : State} (hs : s.writer.state = .starved) (ho : s.writer.offered = true) :
    exec .waitingRequestOffer s =
      .next (captureEvent (repeatRequest (offerTaken s))) := by
  show execWaitingRequestOffer s = _
  unfold execWaitingRequestOffer
  rw [if_pos (by simp [hs, ho])]
  rfl

theorem repeatRequest_served {s t : State} {b : Nat} (hw : s.writer.waiting = some .takeBlock)
    (h : takeBlock s.writer.openRec s.writer.chainLast true s = (.served b, t)) :
    repeatRequest s = leaveStarved (gotBlock b t) := by
  unfold repeatRequest
  rw [hw]
  dsimp only
  rw [requestBlock_served h]

/-- The payload of WRITER_RESUMED (R100). -/
def resumedPayload (w : Writer) : List Field :=
  [⟨0, 1, (w.cause.map StarvedCause.code).getD 0⟩, ⟨8, 8, w.episodeDrops⟩]

/-- The writer as it leaves STARVED (R100). -/
def resumedWriter (w : Writer) : Writer :=
  { w with state := w.resume, waiting := none, cause := none, offered := false }

theorem leaveStarved_starved {s : State} (h : s.writer.state = .starved) :
    leaveStarved s = notifyBoth .writerResumed (resumedPayload s.writer) (setWriter resumedWriter s) := by
  unfold leaveStarved
  exact if_pos h

/-- The state in which block `b` has joined the writer's chain, in block map `m`, and the writer has left STARVED, before
the ports are told. -/
def blockTaken (b : Nat) (m : BlockMap) (s : State) : State :=
  setWriter resumedWriter (gotBlock b { s with blocks := m })

/-- A waiting take-block request repeated with a block free: the block joins the writer's chain, the writer resumes, and
both ports are told. -/
theorem repeatRequest_free {s : State} {b : Nat} {rest : List Nat} (hs : s.writer.state = .starved)
    (hw : s.writer.waiting = some .takeBlock) (hf : s.blocks.free = b :: rest) (hb : b < 8192)
    (hl : ∀ l, s.writer.chainLast = some l → (s.blocks.get l).state ≠ .filling ∧ l ≠ b) :
    ∃ m,
      repeatRequest s =
        notifyBoth .writerResumed (resumedPayload s.writer) (blockTaken b m s) ∧
        m.free = rest ∧ m.get b = servedBlock s.writer.openRec (s.blocks.get b) := by
  obtain ⟨m, served, free, block⟩ := serveBlock_free hf hb (fun l h => (hl l h).2) s.writer.openRec
  have taken := takeBlock_free hf (fun l h => (hl l h).1) s.writer.openRec true
  refine ⟨m, ?_, free, block⟩
  rw [repeatRequest_served hw (taken.trans served)]
  exact leaveStarved_starved hs

theorem sameBlocks_notifyBoth (k : NoticeKind) (pay : List Field) (s : State) : SameBlocks s (notifyBoth k pay s) :=
  sameBlocks_trans (sameBlocks_notify .p0 k pay s) (sameBlocks_notify .p1 k pay _)

/-- Everything that the aligner, the writer, the engine and the arbiter do after a state. -/
theorem followedByCapture (u : State) : FollowedByCapture u (captureEvent u) :=
  ⟨rfl, (cap_captureEvent u).view, (cap_captureEvent u).ports⟩

/-- Settles O22: the request that is repeated is served from the free list, and the writer resumes. -/
theorem offeredBlockEndsStarvation : Obligations.OfferedBlockEndsStarvation := by
  unfold Obligations.OfferedBlockEndsStarvation
  intro s b rest hs ho hw hf hb hl
  obtain ⟨m, repeated, free, block⟩ := repeatRequest_free (s := offerTaken s) hs hw hf hb hl
  refine ⟨repeatRequest (offerTaken s), _, exec_waitingRequestOffer hs ho, followedByCapture _, ?_⟩
  rw [repeated]
  have told := notified_notifyBoth .writerResumed (resumedPayload (offerTaken s).writer) (blockTaken b m (offerTaken s))
  have same := sameBlocks_notifyBoth .writerResumed (resumedPayload (offerTaken s).writer) (blockTaken b m (offerTaken s))
  obtain ⟨catalog, blocks, -, -, -, writer, aligner, intake, mem, -⟩ := sameBlocks_iff.mp same
  refine ⟨by rw [writer]; rfl, by rw [writer]; rfl, by rw [writer]; rfl, by rw [writer]; rfl, by rw [writer]; rfl,
    by rw [writer]; rfl, by rw [blocks]; exact free, ?state, ?owner, ?held, intake, aligner, catalog, mem,
    fun p => notified_congr (told p) ?port rfl rfl⟩
  case state => rw [blocks]; exact congrArg Block.state block
  case owner => rw [blocks]; exact congrArg Block.owner block
  case held => rw [blocks]; exact congrArg Block.held block
  case port => cases p <;> rfl

end Sys2Proof.Proofs
end

section
/-! PROOF. START: its checks, DISCARD, and the copies of the configuration that an accepted one takes. -/

namespace Sys2Proof.Proofs

open Sys2Proof.Machine Sys2Proof.Laws

/-! ## The taking of a session request (R152) -/

/-- With no ABORT or RESET_PART in progress the session unit takes the oldest request of the code. -/
theorem takeSession_of {s : State} {p : Port} {code : Nat} {r : Passed} (h : Waits s p code r)
    (hi : s.session.inProgress = none) : takeSession p code s = some (r, s.without p code) := by
  unfold takeSession
  rw [hi]
  exact takePassed_of h.oldest

theorem exec_start {s : State} {p : Port} {r : Passed} {g : BitVec 32} {discard : Bool} (group : Option GroupInTransfer)
    (h : Waits s p 0x21 r) (hr : r.request = .start g discard) (hi : s.session.inProgress = none) :
    exec (.start p group) s = .next (start r g discard group (s.without p 0x21)) := by
  show execStart p group s = _
  unfold execStart
  rw [takeSession_of h hi]
  dsimp only
  rw [hr]

/-- A waiting request that has left the passed requests and is answered with nothing else done. -/
theorem refused_without {s : State} {p : Port} {code : Nat} {r : Passed} (h : Waits s p code r) (st : Status) :
    Replied s (answer r st 0 [] (s.without p code)) r st 0 [] ∧
      SameBlocks (s.without p code) (answer r st 0 [] (s.without p code)) :=
  ⟨replied_without h st 0 [], sameBlocks_answer r st 0 [] _⟩

/-! ## The checks of START (R156) -/

theorem startStatus_calibrating {s : State} (g : BitVec 32) (h : s.mem.cal = .calibrating) :
    startStatus g s = .busy := if_pos h

theorem startStatus_failed {s : State} (g : BitVec 32) (h : s.mem.cal = .failed) :
    startStatus g s = .memoryFailed := by
  unfold startStatus
  rw [if_neg (by simp [h]), if_pos h]

/-- With calibration done the checks are those of the generation and the session state. -/
theorem startStatus_ready {s : State} (g : BitVec 32) (h : s.mem.cal = .ready) :
    startStatus g s =
      if s.session.generation = 0 then .notConfigured else if g ≠ s.session.generation then .stale
      else if s.session.state ≠ .stopped then .busy else .ok := by
  unfold startStatus
  rw [if_neg (by simp [h]), if_neg (by simp [h])]

theorem start_refused {s : State} {r : Passed} {g : BitVec 32} {discard : Bool} {group : Option GroupInTransfer}
    {st : Status} (h : startStatus g s = st) (hst : st ≠ .ok) :
    start r g discard group s = answer r st 0 [] s := by
  unfold start
  split
  · next ok _ => exact absurd (h.symm.trans ok) hst
  · next ok _ => exact absurd (h.symm.trans ok) hst
  · rw [h]

theorem start_accepted {s : State} {r : Passed} {g : BitVec 32} {discard : Bool} {group : Option GroupInTransfer}
    {c : ConfigRec} (h : startStatus g s = .ok) (hc : s.session.config = some c) :
    start r g discard group s = acceptStart r c discard group s := by
  unfold start
  rw [h, hc]

/-! ## An accepted START (R157) -/

/-- Steps 1 and 2 of R157: the session is RUNNING with totals 0, under the next session number. -/
def sessionOpened (s : State) : State :=
  { s with
    session := { s.session with state := .running, stopTaken := false, totals := Totals.zero }
    catalog := { s.catalog with session := wrapToOne s.catalog.session } }

/-- Step 3 of R157: how many entries DISCARD has converted, and the state after. -/
def discarded (discard : Bool) (s : State) : Nat × State := if discard then discardAll s else (0, s)

/-- The state in which the blocks have taken their copies, before the answer. -/
def started (c : ConfigRec) (discard : Bool) (group : Option GroupInTransfer) (s : State) : State :=
  startBlocks c group (discarded discard (sessionOpened s)).2

theorem low_discarded (discard : Bool) (s : State) : Low s (discarded discard s).2 := by
  unfold discarded
  split
  · exact low_discardAll s
  · exact Rel.refl s

/-- What START's steps leave before the answer. -/
structure Started (c : ConfigRec) (s v : State) : Prop where
  number : v.catalog.session = wrapToOne s.catalog.session
  session : v.session = { s.session with state := .running, stopTaken := false, totals := Totals.zero }
  mem : v.mem = { s.mem with order := c.order }
  intake : ∃ k group, v.intake = startIntake c group k
  aligner : ∃ first, v.aligner = startAligner c first
  writer : ∃ first, v.writer = startWriter c first
  queue : ∀ p, QueueKept (s.port p) (v.port p)

theorem started_spec (c : ConfigRec) (discard : Bool) (group : Option GroupInTransfer) (s : State) :
    Started c s (started c discard group s) := by
  have low := low_discarded discard (sessionOpened s)
  unfold started
  generalize (discarded discard (sessionOpened s)).2 = x at low
  have number : x.catalog.session = wrapToOne s.catalog.session := (congrArg (fun y : State => y.catalog.session) low.view :)
  have session : x.session = (sessionOpened s).session := (congrArg (fun y : State => y.session) low.view :)
  have mem : x.mem = s.mem := (congrArg (fun y : State => y.mem) low.view :)
  refine ⟨number, session, by rw [← mem]; rfl, ⟨_, _, rfl⟩, ⟨_, rfl⟩, ⟨_, rfl⟩, fun p => ?_⟩
  have queue := (low.ports p).queue
  cases p <;> exact queue

/-- The payload of an accepted START's completion (R157): the session number and the count of converted entries. -/
def startPayload (session : BitVec 32) (converted : Nat) : List Field :=
  [⟨0, 4, session.toNat⟩, ⟨4, 4, converted⟩]

theorem acceptStart_eq (r : Passed) (c : ConfigRec) (discard : Bool) (group : Option GroupInTransfer) (s : State) :
    acceptStart r c discard group s =
      captureEvent
        (answer r .ok 0 (startPayload (wrapToOne s.catalog.session) (discarded discard (sessionOpened s)).1)
          (started c discard group s)) := by
  rw [← (started_spec c discard group s).number]
  rfl

/-- Without DISCARD no entry, block or hold changes, and nothing is counted (R157). -/
theorem started_undiscarded (c : ConfigRec) {discard : Bool} (hd : discard = false) (group : Option GroupInTransfer)
    (s : State) :
    (discarded discard (sessionOpened s)).1 = 0 ∧ (started c discard group s).catalog.entries = s.catalog.entries ∧
      (started c discard group s).blocks = s.blocks ∧ (started c discard group s).bank0 = s.bank0 ∧
      (started c discard group s).bank1 = s.bank1 := by
  subst hd
  exact ⟨rfl, rfl, rfl, rfl, rfl⟩

/-- With DISCARD the convertible entries are counted and LOST, and no other entry changes (R158). -/
theorem started_discarded (c : ConfigRec) {discard : Bool} (hd : discard = true) (group : Option GroupInTransfer)
    {s : State} (hn : s.catalog.Numbered) :
    (discarded discard (sessionOpened s)).1 = (s.catalog.entries.filter s.convertible).length ∧
      (started c discard group s).catalog.entries =
        s.catalog.entries.map (fun e => if s.convertible e then lostEntry e else e) := by
  subst hd
  exact discardAll_entries (sessionOpened s) (numbers_nodup (c := s.catalog) hn)

/-- What the engine, a DRAIN_DONE and the arbiter leave alone outside DRAINING. -/
structure EngineKeeps (u t : State) : Prop where
  number : t.catalog.session = u.catalog.session
  state : t.session.state = u.session.state
  totals : t.session.totals = u.session.totals
  config : t.session.config = u.session.config
  order : t.mem.order = u.mem.order
  cells : t.mem.cells = u.mem.cells
  intake : t.intake = u.intake
  aligner : t.aligner = u.aligner
  writer : t.writer = { u.writer with offered := t.writer.offered }

theorem engineKeeps_engineEvent {u : State} (h : u.session.state ≠ .draining) : EngineKeeps u (engineEvent u) := by
  obtain ⟨state, aligner⟩ := engineEvent_apart h
  have view := (eng_engineEvent u).view
  exact ⟨(congrArg (fun y : State => y.catalog.session) view :), state,
    (congrArg (fun y : State => y.session.totals) view :), (congrArg (fun y : State => y.session.config) view :),
    (congrArg (fun y : State => y.mem.order) view :), (congrArg (fun y : State => y.mem.cells) view :),
    (congrArg (fun y : State => y.intake) view :), aligner,
    writer_of_offered (congrArg (fun y : State => y.writer) view :)⟩

/-- After START the writer and the aligner have nothing to settle, and the engine and the arbiter go on outside
DRAINING. -/
theorem Started.settled {c : ConfigRec} {s v : State} (h : Started c s v) (r : Passed) (pay : List Field) :
    EngineKeeps v (captureEvent (answer r .ok 0 pay v)) := by
  obtain ⟨first, aligner⟩ := h.aligner
  obtain ⟨next, writer⟩ := h.writer
  have quiet : captureEvent (answer r .ok 0 pay v) = engineEvent (answer r .ok 0 pay v) := by
    refine captureEvent_quiet ?rejudge ?handed ?changes
    case rejudge => rw [answer_aligner, aligner]; rfl
    case handed => rw [answer_writer, writer]; rfl
    case changes => rw [answer_writer, writer]; rfl
  have runs : (answer r .ok 0 pay v).session.state ≠ .draining := by rw [answer_session, h.session]; simp
  have kept := engineKeeps_engineEvent runs
  rw [quiet]
  generalize engineEvent (answer r .ok 0 pay v) = t at kept
  obtain ⟨number, state, totals, config, order, cells, intake, aligner, writer⟩ := kept
  simp only [answer_catalog, answer_session, answer_mem, answer_intake, answer_aligner, answer_writer] at *
  exact ⟨number, state, totals, config, order, cells, intake, aligner, writer⟩

/-- The intake, the aligner and the writer have their copies of the configuration, and the session runs (R157). -/
structure SessionRuns (c : ConfigRec) (s t : State) : Prop where
  number : t.catalog.session = wrapToOne s.catalog.session
  state : t.session.state = .running
  totals : t.session.totals = Totals.zero
  config : t.session.config = s.session.config
  order : t.mem.order = c.order
  cells : t.mem.cells = s.mem.cells
  intake : ∃ k group, t.intake = startIntake c group k
  aligner : ∃ first, t.aligner = startAligner c first
  writer : ∃ first offered, t.writer = { startWriter c first with offered := offered }

theorem Started.runs {c : ConfigRec} {s v t : State} (h : Started c s v) (k : EngineKeeps v t) : SessionRuns c s t := by
  obtain ⟨number, session, mem, ⟨old, group, intake⟩, ⟨first, aligner⟩, ⟨next, writer⟩, -⟩ := h
  exact ⟨k.number.trans number, by rw [k.state, session], by rw [k.totals, session], by rw [k.config, session],
    by rw [k.order, mem], by rw [k.cells, mem], ⟨old, group, k.intake.trans intake⟩, ⟨first, k.aligner.trans aligner⟩,
    ⟨next, t.writer.offered, writer ▸ k.writer⟩⟩

/-- Settles O54: the checks of START refuse in their order; past them the steps of R157 are taken, with nothing to settle,
and the engine goes on outside DRAINING. -/
theorem sessionStarts : Obligations.SessionStarts := by
  unfold Obligations.SessionStarts
  intro p s r g discard group h hr hi refused session
  have run := exec_start group h hr hi
  have refuse : ∀ {st : Status}, startStatus g (s.without p 0x21) = st → st ≠ .ok → refused st := fun hq hst =>
    ⟨_, by rw [run, start_refused hq hst], refused_without h _⟩
  have checks : s.mem.cal = .ready → startStatus g (s.without p 0x21) = _ := startStatus_ready g
  refine ⟨fun hm => ?calibrating, fun hm => ?failed, fun hm hg => ?unconfigured, fun hm hg hs => ?stale,
    fun hm hg hs hb => ?busy, fun hm hg hs hb c hc => ?accepted⟩
  case calibrating => exact refuse (startStatus_calibrating g hm) (by simp)
  case failed => exact refuse (startStatus_failed g hm) (by simp)
  case unconfigured => exact refuse ((checks hm).trans (if_pos hg)) (by simp)
  case stale => exact refuse ((checks hm).trans ((if_neg hg).trans (if_pos hs))) (by simp)
  case busy =>
    exact refuse ((checks hm).trans ((if_neg hg).trans ((if_neg (not_not.mpr hs)).trans (if_pos hb)))) (by simp)
  case accepted =>
    have ok : startStatus g (s.without p 0x21) = .ok :=
      (checks hm).trans ((if_neg hg).trans ((if_neg (not_not.mpr hs)).trans (if_neg (not_not.mpr hb))))
    have begun := started_spec c discard group (s.without p 0x21)
    have undone := fun hd => started_undiscarded c (discard := discard) hd group (s.without p 0x21)
    have done := fun hd => started_discarded c (discard := discard) hd group (s := s.without p 0x21)
    rw [run, start_accepted ok hc, acceptStart_eq]
    generalize (discarded discard (sessionOpened (s.without p 0x21))).1 = n at undone done ⊢
    generalize started c discard group (s.without p 0x21) = v at begun undone done ⊢
    have answered := answered_cap
      (answered_after (fun q => queueKept_trans (queueKept_without s p 0x21 q) (begun.queue q))
        (replied_answered (replied_answer h.live .ok 0 (startPayload session n) (fun _ => rfl))))
      (cap_captureEvent (answer r .ok 0 (startPayload session n) v))
    refine ⟨n, v, captureEvent (answer r .ok 0 (startPayload session n) v), rfl, followedByCapture _, undone, done, ?_⟩
    obtain ⟨number, state, totals, config, order, cells, ⟨old, got, intake⟩, ⟨first, aligner⟩, next, offered, writer⟩ :=
      begun.runs (begun.settled r (startPayload session n))
    refine ⟨answered, number, state, totals, order, by rw [intake]; rfl, by rw [intake]; rfl, by rw [intake]; rfl,
      by rw [intake]; rfl, by rw [intake]; rfl, by rw [intake]; rfl, by rw [intake]; rfl, fun hm => ?segmented,
      fun hm => ?continuous, by rw [writer]; rfl, by rw [writer]; rfl, by rw [writer]; rfl, by rw [writer]; rfl,
      by rw [writer]; rfl, by rw [aligner]; rfl, by rw [aligner]; rfl, config, cells⟩
    case segmented => rw [writer, aligner]; simp [startWriter, startAligner, hm]
    case continuous => rw [writer, aligner]; simp [startWriter, startAligner, hm]

end Sys2Proof.Proofs
end

section
/-! PROOF. RESET_PART: its checks, the part emptied, and the answer with nothing to wait for. -/

namespace Sys2Proof.Proofs

open Sys2Proof.Machine Sys2Proof.Laws

/-! ## The checks of RESET_PART (R165) -/

theorem exec_resetPart {s : State} {p : Port} {r : Passed} (h : Waits s p 0x24 r) (hi : s.session.inProgress = none) :
    exec (.resetPart p) s = .next (resetPart r (s.without p 0x24)) := by
  show execResetPart p s = _
  unfold execResetPart
  rw [takeSession_of h hi]

theorem bankActive_iff {b : HoldBank} : b.active = true ↔ ∃ i, b.hold i ≠ none := by
  unfold HoldBank.active
  rw [List.any_eq_true]
  simp only [Option.isSome_iff_ne_none]
  exact ⟨fun ⟨i, _, hi⟩ => ⟨i, hi⟩, fun ⟨i, hi⟩ => ⟨i, mem_slots16 i, hi⟩⟩

/-- Some hold of either port is ACTIVE. -/
theorem holdsActive_iff {s : State} :
    (s.bank0.active || s.bank1.active) = true ↔ ∃ q i, (s.bank q).hold i ≠ none := by
  rw [Bool.or_eq_true, bankActive_iff, bankActive_iff]
  constructor
  · rintro (⟨i, hi⟩ | ⟨i, hi⟩)
    · exact ⟨.p0, i, hi⟩
    · exact ⟨.p1, i, hi⟩
  · rintro ⟨_ | _, i, hi⟩
    · exact .inl ⟨i, hi⟩
    · exact .inr ⟨i, hi⟩

theorem resetStatus_running {p : Port} {s : State} (h : s.session.state ≠ .stopped) : resetStatus p s = .busy := if_pos h

theorem resetStatus_held {p : Port} {s : State} (h : s.session.state = .stopped) (hh : ∃ q i, (s.bank q).hold i ≠ none) :
    resetStatus p s = .held := by
  unfold resetStatus
  rw [if_neg (not_not.mpr h), if_pos (holdsActive_iff.mpr hh)]

/-- Out of sessions and holds the check is that of the binding. -/
theorem resetStatus_unheld {p : Port} {s : State} (h : s.session.state = .stopped)
    (hh : ¬ ∃ q i, (s.bank q).hold i ≠ none) :
    resetStatus p s = if s.engine.bound = some p.other then .boundElsewhere else .ok := by
  unfold resetStatus
  rw [if_neg (not_not.mpr h), if_neg (mt holdsActive_iff.mp hh)]

theorem resetPart_refused {r : Passed} {s : State} {st : Status} (h : resetStatus r.port s = st) (hst : st ≠ .ok) :
    resetPart r s = answer r st 0 [] s := by
  unfold resetPart
  split
  · next ok => exact absurd (h.symm.trans ok) hst
  · rw [h]

/-! ## What the engine waits for (R90, R151) -/

theorem archiveGranted_iff {m : MemService} : m.archiveGranted = true ↔ ∃ b d, m.busy = some (.archive b d) := by
  unfold MemService.archiveGranted
  split
  · next b d h => exact ⟨fun _ => ⟨b, d, h⟩, fun _ => rfl⟩
  · next h => exact ⟨fun k => absurd k (by simp), fun ⟨b, d, k⟩ => absurd k (h b d)⟩

theorem archiveGranted_withdraw (m : MemService) : (withdrawArchive m).archiveGranted = m.archiveGranted := by
  unfold MemService.archiveGranted withdrawArchive
  cases h : m.busy with
  | none => rfl
  | some g => cases g <;> rfl

theorem engineWaits_iff {s : State} :
    s.engineWaits = true ↔
      s.engine.issued ≠ [] ∨ (s.engine.bound ≠ none ∧ ∃ b d, s.mem.busy = some (.archive b d)) := by
  unfold State.engineWaits
  rw [Bool.or_eq_true, Bool.and_eq_true, archiveGranted_iff, Option.isSome_iff_ne_none]
  simp

/-! ## The part emptied (R43, R166) -/

/-- Block `b` after a part reset (R43): FREE and listed when it was neither FAULTY nor suspect; FAULTY and not listed when
it was FAULTY. -/
structure BlockReset (m k : BlockMap) (b : Nat) : Prop where
  freed : (m.get b).state ≠ .faulty → (m.get b).suspect = false → k.get b = Block.fresh ∧ b ∈ k.free
  faulty : (m.get b).state = .faulty → (k.get b).state = .faulty ∧ b ∉ k.free

theorem not_mem_suspects {m : BlockMap} {b : Nat} (h : (m.get b).suspect = false) : b ∉ m.suspects := by
  unfold BlockMap.suspects
  simp [h]

/-- The suspect blocks retired and the block map rebuilt. -/
theorem blockReset_rebuild {s t : State} (h : BlocksRetired s.blocks.suspects s t) {b : Nat} (hb : b < 8192) :
    BlockReset s.blocks t.blocks.rebuild b := by
  refine ⟨fun hf hs => ?freed, fun hf => ?faulty⟩
  case freed =>
    have same : (t.blocks.get b).state ≠ .faulty := by rw [h.keep b (not_mem_suspects hs)]; exact hf
    exact ⟨by rw [rebuild_get _ hb, if_neg same], (rebuild_free _ b).mpr ⟨hb, same⟩⟩
  case faulty =>
    have same := h.faulty b hf
    exact ⟨by rw [rebuild_get _ hb, if_pos same]; exact same, fun k => ((rebuild_free _ b).mp k).2 same⟩

/-- What step 2 of R166 sets, and what it leaves. -/
structure CatalogReset (s t : State) : Prop where
  catalog : t.catalog = { Catalog.reset with epoch := s.catalog.epoch + 1 }
  session : t.session = { s.session with totals := Totals.zero }
  engine : t.engine = s.engine
  mem : t.mem = s.mem
  intake : t.intake = s.intake
  bank0 : t.bank0 = s.bank0
  bank1 : t.bank1 = s.bank1
  groups :
    t.counters.intake = IntakeCounters.zero ∧ t.counters.trigger = TriggerCounters.zero ∧
      t.counters.catalog = CatalogCounters.zero ∧ t.counters.archive = ArchiveCounters.zero ∧
      t.counters.holds = HoldCounters.zero
  blocks : ∀ b, b < 8192 → BlockReset s.blocks t.blocks b
  last : t.blocks.last = none
  ports : ∀ p, PortKept (s.port p) (t.port p)

/-- The catalog emptied and the counters cleared, before the block map is rebuilt. -/
def catalogEmptied (s : State) : State :=
  { s with
    catalog := { Catalog.reset with epoch := s.catalog.epoch + 1 }
    counters := Counters.zero
    session := { s.session with totals := Totals.zero } }

theorem resetCatalog_eq (s : State) :
    ∃ t, BlocksRetired s.blocks.suspects (catalogEmptied s) t ∧
      resetCatalog s = { t with blocks := t.blocks.rebuild } :=
  ⟨_, blocksRetired_all s.blocks.suspects (catalogEmptied s), rfl⟩

theorem catalogReset_spec (s : State) : CatalogReset s (resetCatalog s) := by
  obtain ⟨t, retired, e⟩ := resetCatalog_eq s
  rw [e]
  have blocks := fun b (hb : b < 8192) => blockReset_rebuild (s := catalogEmptied s) retired hb
  obtain ⟨catalog, bank0, bank1, engine, session, mem, intake, -, groups, ports, -, -⟩ := retired
  refine ⟨catalog, session, engine, mem, intake, bank0, bank1, groups, blocks, rfl, fun p => ?_⟩
  cases p
  · exact ports .p0
  · exact ports .p1

theorem rewind_ports (counted : Bool) (s : State) (p : Port) : PortKept (s.port p) ((rewind counted s).port p) := by
  have logged : PortKept (s.port p) ((logFailedWrite s).port p) := by
    unfold logFailedWrite
    split
    · exact portKept_refl _
    · next w _ =>
      rw [countArchive_port]
      have told := (told_logFault .archive .linkWriteError w.addr.toNat
        (setEngine (fun g => { g with failed := none }) s)).ports p
      rwa [setEngine_port] at told
  exact portKept_trans logged ((eng_rewindEntries counted (logFailedWrite s)).ports p)

theorem rewind_blocks (counted : Bool) (s : State) :
    (rewind counted s).blocks = s.blocks ∧ (rewind counted s).intake = s.intake := by
  have entries := beyondEngine_rewindEntries counted (logFailedWrite s)
  obtain ⟨-, blocks, -, -, -, -, -, intake, -⟩ := sameBlocks_iff.mp (logFailedWrite_blocks s)
  exact ⟨entries.blocks.trans blocks, entries.intake.trans intake⟩

/-- Request `r` is in progress (R152). -/
def resetTaken (r : Passed) (s : State) : State := setSession (fun k => { k with inProgress := some (.resetPart r) }) s

/-- The state in which request `r` has emptied the part, before the engine's wait (R166). -/
def partEmptied (r : Passed) (s : State) : State :=
  resetCatalog (rewind false (resetTaken r s))

theorem resetPart_accepted {r : Passed} {s : State} (h : resetStatus r.port s = .ok) :
    resetPart r s =
      if (partEmptied r s).engineWaits then
        setEngine (fun g => { g with ending := some (.partReset (g.ending.bind Ending.unbinding)), errorNotice := none })
          (partEmptied r s)
      else finishReset (partEmptied r s) := by
  unfold resetPart
  rw [h]
  rfl

/-- What the emptying of the part sets, and what it leaves. -/
structure PartEmptied (r : Passed) (s u : State) : Prop where
  catalog : u.catalog = { Catalog.reset with epoch := s.catalog.epoch + 1 }
  session : u.session = { s.session with inProgress := some (.resetPart r), totals := Totals.zero }
  bound : u.engine.bound = s.engine.bound
  issued : u.engine.issued = s.engine.issued
  ending : u.engine.ending = s.engine.ending
  mem : u.mem = withdrawArchive s.mem
  intake : u.intake = s.intake
  banks : ∀ q, u.bank q = s.bank q
  groups :
    u.counters.intake = IntakeCounters.zero ∧ u.counters.trigger = TriggerCounters.zero ∧
      u.counters.catalog = CatalogCounters.zero ∧ u.counters.archive = ArchiveCounters.zero ∧
      u.counters.holds = HoldCounters.zero
  blocks : ∀ b, b < 8192 → BlockReset s.blocks u.blocks b
  last : u.blocks.last = none
  ports : ∀ p, PortKept (s.port p) (u.port p)

theorem partEmptied_spec (r : Passed) (s : State) : PartEmptied r s (partEmptied r s) := by
  have reset := catalogReset_spec (rewind false (resetTaken r s))
  unfold partEmptied
  obtain ⟨epoch, session, bank0, bank1⟩ := rewind_rest false (resetTaken r s)
  obtain ⟨engine, -⟩ := rewind_engine false (resetTaken r s)
  obtain ⟨blocks, intake⟩ := rewind_blocks false (resetTaken r s)
  have mem := rewind_mem false (resetTaken r s)
  have ports := rewind_ports false (resetTaken r s)
  generalize rewind false (resetTaken r s) = x at *
  refine ⟨by rw [reset.catalog, epoch]; rfl, by rw [reset.session, session]; rfl, by rw [reset.engine, engine]; rfl,
    by rw [reset.engine, engine]; rfl, by rw [reset.engine, engine]; rfl, reset.mem.trans mem,
    reset.intake.trans intake, bank_of (reset.bank0.trans bank0) (reset.bank1.trans bank1), reset.groups,
    fun b hb => blocks ▸ reset.blocks b hb, reset.last, fun p => ?_⟩
  have first := ports p
  cases p <;> exact portKept_trans first (reset.ports _)

theorem PartEmptied.waits_iff {r : Passed} {s u : State} (h : PartEmptied r s u) :
    u.engineWaits = true ↔
      s.engine.issued ≠ [] ∨ (s.engine.bound ≠ none ∧ ∃ b d, s.mem.busy = some (.archive b d)) := by
  rw [engineWaits_iff, h.issued, h.bound, ← archiveGranted_iff, h.mem, archiveGranted_withdraw, archiveGranted_iff]

/-! ## The answer (R166) -/

/-- Step 3 of R166: the engine as at power-on, and no request in progress. -/
def resetDone (u : State) : State := setSession (fun k => { k with inProgress := none }) (engineReset u)

/-- With no unbinding met, the other port is told and the request answered. -/
theorem finishReset_eq {r : Passed} {u : State} (he : u.engine.ending = none)
    (hi : u.session.inProgress = some (.resetPart r)) :
    finishReset u = answer r .ok 0 [] (notify r.port.other .partReset [] (resetDone u)) := by
  have unbinding : answerUnbinding u = u := by
    unfold answerUnbinding
    rw [he]
    rfl
  have waiting : (engineReset u).session.inProgress = some (.resetPart r) := hi
  unfold finishReset
  rw [unbinding]
  dsimp only
  rw [waiting]
  rfl

/-- A notice sent after steps that keep the port's entries has been sent from the start. -/
theorem notified_after {s t u : State} {p : Port} {k : NoticeKind} {pay : List Field}
    (h : QueueKept (s.port p) (t.port p)) (n : Notified t u p k pay) : Notified s u p k pay :=
  n.imp_left (posted_after h)

theorem portKept_inHand {u v : PortUnit} (h : PortKept u v) : v.inHand = u.inHand :=
  (congrArg (fun w : PortUnit => w.inHand) h.rest :)

/-- The end of a part reset with nothing to wait for. -/
structure ResetAnswered (r : Passed) (u t : State) : Prop where
  answered : Answered u t r .ok 0 []
  told : Notified u t r.port.other .partReset []
  catalog : t.catalog = u.catalog
  blocks : t.blocks = u.blocks
  banks : ∀ q, t.bank q = u.bank q
  engine : t.engine = Engine.reset
  session : t.session = { u.session with inProgress := none }
  mem : t.mem = u.mem
  intake : t.intake = u.intake
  groups :
    t.counters.intake = u.counters.intake ∧ t.counters.trigger = u.counters.trigger ∧
      t.counters.catalog = u.counters.catalog ∧ t.counters.archive = u.counters.archive ∧
      t.counters.holds = u.counters.holds

theorem resetAnswered_spec {r : Passed} (hl : r.live = true) (u : State) :
    ResetAnswered r u (answer r .ok 0 [] (notify r.port.other .partReset [] (resetDone u))) := by
  have ports : ∀ p, (resetDone u).port p = u.port p := fun p => by cases p <;> rfl
  have told := notified_notify r.port.other .partReset [] (resetDone u)
  have same := sameBlocks_notify r.port.other .partReset [] (resetDone u)
  have groups := notify_groups r.port.other .partReset [] (resetDone u)
  have queue := fun p => ((told_notify r.port.other .partReset [] (resetDone u)).ports p).queue
  generalize notify r.port.other .partReset [] (resetDone u) = x at *
  obtain ⟨catalog, blocks, bank0, bank1, engine, -, -, intake, mem, session, -⟩ := sameBlocks_iff.mp same
  have replied := replied_answered (replied_answer hl .ok 0 [] (s := x) (fun _ => rfl))
  simp only [ports] at queue
  refine ⟨answered_after queue replied, ?told, ?_, ?_, fun q => ?banks, ?_, ?_, ?_, ?_, ?_⟩
  case told => exact notified_congr (notified_answer told hl .ok 0 []) (ports _).symm rfl rfl
  case banks => rw [answer_bank]; exact bank_of (s := u) bank0 bank1 q
  all_goals simp only [answer_catalog, answer_blocks, answer_engine, answer_session, answer_mem, answer_intake,
    answer_counters]
  · exact catalog
  · exact blocks
  · exact engine
  · exact session
  · exact mem
  · exact intake
  · exact groups

/-- Settles O57: the checks refuse in their order; past them the part is emptied, and the request is answered, or waits for
the engine. -/
theorem partIsReset : Obligations.PartIsReset := by
  unfold Obligations.PartIsReset
  intro p s r h hi heldAny burst refused
  have run := exec_resetPart h hi
  have port := (Waits.port h).1
  have held : heldAny ↔ ∃ q i, ((s.without p 0x24).bank q).hold i ≠ none := by simp only [without_bank]; rfl
  have refuse : ∀ {st : Status}, resetStatus p (s.without p 0x24) = st → st ≠ .ok → refused st := fun hq hst =>
    ⟨_, by rw [run, resetPart_refused (port ▸ hq) hst], refused_without h _⟩
  have accept : s.session.state = .stopped → ¬ heldAny → s.engine.bound ≠ some p.other →
      resetStatus r.port (s.without p 0x24) = .ok := fun hs hh hb => by
    rw [port]
    exact (resetStatus_unheld (s := s.without p 0x24) hs (mt held.mpr hh)).trans (if_neg hb)
  have emptied := partEmptied_spec r (s.without p 0x24)
  generalize hu : partEmptied r (s.without p 0x24) = u at emptied
  have waits : u.engineWaits = true ↔ s.engine.issued ≠ [] ∨ burst := emptied.waits_iff
  have ports : ∀ q, PortKept (s.port q) (u.port q) := fun q => without_port s p q 0x24 ▸ emptied.ports q
  refine ⟨fun hs => ?running, fun hs hh => ?held, fun hs hh hb => ?boundElsewhere, fun hs hh hb hw hg he => ?done,
    fun hs hh hb hw => ?waiting⟩
  case running => exact refuse (resetStatus_running hs) (by simp)
  case held => exact refuse (resetStatus_held hs (held.mp hh)) (by simp)
  case boundElsewhere => exact refuse ((resetStatus_unheld hs (mt held.mpr hh)).trans (if_pos hb)) (by simp)
  case done =>
    have free : ¬ u.engineWaits = true := fun k => (waits.mp k).elim (fun k => k hw) hg
    have reset := resetAnswered_spec h.live u
    refine ⟨_, by
      rw [run, resetPart_accepted (accept hs hh hb), hu, if_neg free,
        finishReset_eq (emptied.ending.trans he) (by rw [emptied.session])], ?_⟩
    generalize answer r .ok 0 [] _ = t at reset
    obtain ⟨answered, told, catalog, blocks, banks, engine, session, mem, intake, intakeCount, triggerCount, catalogCount,
      archiveCount, holdCount⟩ := reset
    obtain ⟨zeroIntake, zeroTrigger, zeroCatalog, zeroArchive, zeroHolds⟩ := emptied.groups
    have queue : ∀ q, QueueKept (s.port q) (u.port q) := fun q => (ports q).queue
    refine ⟨answered_after queue answered, by rw [catalog, emptied.catalog]; rfl, by rw [catalog, emptied.catalog]; rfl,
      by rw [catalog, emptied.catalog]; rfl, by rw [catalog, emptied.catalog]; rfl,
      fun b hb hf hs => blocks ▸ (emptied.blocks b hb).freed hf hs, fun b hb hf => blocks ▸ (emptied.blocks b hb).faulty hf,
      by rw [blocks]; exact emptied.last, engine, intakeCount.trans zeroIntake, triggerCount.trans zeroTrigger,
      catalogCount.trans zeroCatalog, archiveCount.trans zeroArchive, holdCount.trans zeroHolds,
      by rw [session, emptied.session], by rw [session, emptied.session]; rfl, by rw [session, emptied.session]; rfl,
      by rw [session], notified_after (queue _) (port ▸ told), fun q => ?tags, ?cells, intake.trans emptied.intake⟩
    case tags => rw [banks, emptied.banks, without_bank]
    case cells => rw [mem, emptied.mem]; rfl
  case waiting =>
    refine ⟨_, by rw [run, resetPart_accepted (accept hs hh hb), hu, if_pos (waits.mpr hw)], ?_⟩
    refine ⟨by rw [setEngine_catalog, emptied.catalog]; rfl, ?ending, by rw [setEngine_session, emptied.session],
      emptied.issued, fun q => ?inHand⟩
    case ending => rw [setEngine_engine]; dsimp only; rw [emptied.ending]; rfl
    case inHand => rw [setEngine_port]; exact portKept_inHand (ports q)

end Sys2Proof.Proofs
end

section
/-! PROOF. PLACE_HOLD, RENEW_HOLD and RELEASE_HOLD: their checks, and what an answered one leaves. -/

namespace Sys2Proof.Proofs

open Sys2Proof.Machine Sys2Proof.Laws

/-! ## Answered hold requests -/

/-- The state in which port `p`'s side of the hold table is `b` and the writer is `w`, and `f` has been counted. -/
def holdsSet (p : Port) (b : HoldBank) (w : Writer) (f : HoldCounters → HoldCounters) (s : State) : State :=
  countHolds f { s.setBank p b with writer := w }

/-- What an answered hold request has left: port `p`'s side of the hold table is `b`, the writer is `w`, and `f` has been
counted. -/
structure HoldsLeft (p : Port) (b : HoldBank) (w : Writer) (f : HoldCounters → HoldCounters) (s t : State) : Prop where
  bank : t.bank p = b
  otherBank : t.bank p.other = s.bank p.other
  counters : t.counters = { s.counters with holds := f s.counters.holds }
  catalog : t.catalog = s.catalog
  blocks : t.blocks = s.blocks
  mem : t.mem = s.mem
  engine : t.engine = s.engine
  writer : t.writer = w
  faults : t.faults = s.faults

theorem holdsLeft_answer (p : Port) (b : HoldBank) (w : Writer) (f : HoldCounters → HoldCounters) (r : Passed)
    (st : Status) (d : Nat) (pay : List Field) (s : State) (code : Nat) :
    HoldsLeft p b w f s (answer r st d pay (holdsSet p b w f (s.without p code))) := by
  refine ⟨?_, ?_, ?_, ?_, ?_, ?_, ?_, ?_, ?_⟩
  · rw [answer_bank]; cases p <;> rfl
  · rw [answer_bank]; cases p <;> rfl
  · rw [answer_counters]; cases p <;> rfl
  · rw [answer_catalog]; cases p <;> rfl
  · rw [answer_blocks]; cases p <;> rfl
  · rw [answer_mem]; cases p <;> rfl
  · rw [answer_engine]; cases p <;> rfl
  · rw [answer_writer]; rfl
  · rw [answer_faults]; cases p <;> rfl

theorem replied_holdsSet {s : State} {p : Port} {code : Nat} {r : Passed} (h : Waits s p code r) (b : HoldBank)
    (w : Writer) (f : HoldCounters → HoldCounters) (st : Status) (d : Nat) (pay : List Field) :
    Replied s (answer r st d pay (holdsSet p b w f (s.without p code))) r st d pay :=
  replied_answer h.live st d pay (fun q => by cases p <;> cases q <;> rfl)

/-- The slots when one of them alone has been set. -/
theorem HoldsLeft.slots {p : Port} {b : HoldBank} {i : Fin 16} {x : Option Hold} {w : Writer}
    {f : HoldCounters → HoldCounters} {s t : State} (h : HoldsLeft p (b.setSlot i x) w f s t) :
    (t.bank p).hold i = x ∧ ∀ j, j ≠ i → (t.bank p).hold j = b.hold j := by
  rw [h.bank]
  exact ⟨by rw [setSlot_hold, if_pos rfl], fun j hj => by rw [setSlot_hold, if_neg hj]⟩

/-- A refusal is counted (R47, R50, R51). -/
def refusalCounted (c : HoldCounters) : HoldCounters := { c with refused := sat c.refused 1 }

theorem refuseHold_eq (r : Passed) (st : Status) (p : Port) (s : State) :
    refuseHold r st s = answer r st 0 [] (holdsSet p (s.bank p) s.writer refusalCounted s) := by
  cases p <;> rfl

/-- A hold request has been answered with this status and no payload, and has left what `HoldsLeft` says. -/
structure HoldAnswered (r : Passed) (st : Status) (b : HoldBank) (w : Writer) (f : HoldCounters → HoldCounters)
    (s t : State) : Prop where
  replied : Replied s t r st 0 []
  left : HoldsLeft r.port b w f s t

theorem holdAnswered_answer {s : State} {code : Nat} {r : Passed} (h : Waits s r.port code r) (st : Status)
    (b : HoldBank) (w : Writer) (f : HoldCounters → HoldCounters) :
    HoldAnswered r st b w f s (answer r st 0 [] (holdsSet r.port b w f (s.without r.port code))) :=
  ⟨replied_holdsSet h b w f st 0 [], holdsLeft_answer r.port b w f r st 0 [] s code⟩

theorem holdAnswered_refuse {s : State} {code : Nat} {r : Passed} (h : Waits s r.port code r) (st : Status) :
    HoldAnswered r st (s.bank r.port) s.writer refusalCounted s (refuseHold r st (s.without r.port code)) := by
  rw [refuseHold_eq r st r.port, without_bank]
  exact holdAnswered_answer h st _ _ _

/-! ## The checks of PLACE_HOLD (R47) -/

/-- The range begins below the head or holds a LOST or RETIRED entry. -/
def PlaceGone (a : HoldArgs) (c : Catalog) : Prop :=
  a.first < c.head ∨ ∃ e ∈ c.range a.first a.last, e.state = .lost ∨ e.state = .retired

/-- The range ends past the tail or holds an OPEN entry. -/
def PlaceUnsealed (a : HoldArgs) (c : Catalog) : Prop :=
  c.tail < a.last ∨ ∃ e ∈ c.range a.first a.last, e.state = .opened

theorem placeGone_iff {a : HoldArgs} {c : Catalog} :
    (decide (a.first < c.head) ||
      (c.range a.first a.last).any (fun e => e.state = .lost || e.state = .retired)) = true ↔ PlaceGone a c := by
  simp [PlaceGone]

theorem placeUnsealed_iff {a : HoldArgs} {c : Catalog} :
    (decide (c.tail < a.last) || (c.range a.first a.last).any (fun e => e.state = .opened)) = true ↔
      PlaceUnsealed a c := by
  simp [PlaceUnsealed]

theorem placeStatus_illegal {a : HoldArgs} (h : ¬ a.legal = true) (p : Port) (s : State) :
    placeStatus p a s = .range :=
  if_pos (by simpa using h)

/-- Of a legal placement the catalog is checked before the slots. -/
theorem placeStatus_legal {a : HoldArgs} (h : a.legal = true) (p : Port) (s : State) [Decidable (PlaceGone a s.catalog)]
    [Decidable (PlaceUnsealed a s.catalog)] :
    placeStatus p a s =
      if PlaceGone a s.catalog then .gone
      else if PlaceUnsealed a s.catalog then .notSealed
      else if (s.bank p).freeSlot = none then .noSlot
      else .ok := by
  unfold placeStatus
  dsimp only
  rw [if_neg (by simp [h])]
  simp only [placeGone_iff, placeUnsealed_iff, Option.isNone_iff_eq_none]

theorem exec_placeHold {s : State} {p : Port} {r : Passed} {a : HoldArgs} (h : Waits s p 0x08 r)
    (hr : r.request = .placeHold a) : exec (.placeHold p) s = .next (placeHold r a (s.without p 0x08)) := by
  show execPlaceHold p s = _
  unfold execPlaceHold
  rw [takePassed_of h.oldest]
  dsimp only
  rw [hr]

theorem placeHold_refused {r : Passed} {a : HoldArgs} {s : State} {st : Status} (h : placeStatus r.port a s = st)
    (hst : st ≠ .ok) : placeHold r a s = refuseHold r st s := by
  unfold placeHold
  rw [h]
  split
  · exact absurd rfl hst
  · rfl

/-- Settles O44: each check that fails gives its status, and every refusal is the same but for it. -/
theorem holdPlacementIsRefused : Obligations.HoldPlacementIsRefused := by
  unfold Obligations.HoldPlacementIsRefused
  intro p s r a h hr legal gone notSealed full
  classical
  have port := (Waits.port h).1
  have isLegal : legal ↔ a.legal = true := (holdArgs_legal_iff a).symm
  have isFull : full ↔ ((s.without p 0x08).bank p).freeSlot = none := by rw [without_bank]; exact freeSlot_none.symm
  have checks := fun hl => placeStatus_legal (isLegal.mp hl) p (s.without p 0x08)
  have refused : ∀ st, placeStatus p a (s.without p 0x08) = st → st ≠ .ok →
      placeHold r a (s.without p 0x08) = refuseHold r st (s.without p 0x08) := fun st k hst =>
    placeHold_refused (port ▸ k) hst
  have illegal : ¬ legal → placeStatus p a (s.without p 0x08) = .range := fun hl =>
    placeStatus_illegal (mt isLegal.mpr hl) p _
  have isGone : legal → gone → placeStatus p a (s.without p 0x08) = .gone := fun hl hg =>
    (checks hl).trans (if_pos hg)
  have unsealed : legal → ¬ gone → notSealed → placeStatus p a (s.without p 0x08) = .notSealed := fun hl hg hn =>
    (checks hl).trans ((if_neg hg).trans (if_pos hn))
  have noSlot : legal → ¬ gone → ¬ notSealed → full → placeStatus p a (s.without p 0x08) = .noSlot := fun hl hg hn hf =>
    (checks hl).trans ((if_neg hg).trans ((if_neg hn).trans (if_pos (isFull.mp hf))))
  have answered : ∀ st, placeStatus p a (s.without p 0x08) = st → st ≠ .ok →
      Replied s (placeHold r a (s.without p 0x08)) r st 0 [] := fun st k hst => by
    rw [refused st k hst]
    exact (refuseHold_fields h st).1
  refine ⟨_, exec_placeHold h hr, fun hl => answered _ (illegal hl) (by simp),
    fun hl hg => answered _ (isGone hl hg) (by simp), fun hl hg hn => answered _ (unsealed hl hg hn) (by simp),
    fun hl hg hn hf => answered _ (noSlot hl hg hn hf) (by simp), fun hany => ?left⟩
  case left =>
    have some_status : ∃ st, placeStatus p a (s.without p 0x08) = st ∧ st ≠ .ok := by
      by_cases hl : legal
      · by_cases hg : gone
        · exact ⟨_, isGone hl hg, by simp⟩
        · by_cases hn : notSealed
          · exact ⟨_, unsealed hl hg hn, by simp⟩
          · exact ⟨_, noSlot hl hg hn (((hany.resolve_left (not_not_intro hl)).resolve_left hg).resolve_left hn), by simp⟩
      · exact ⟨_, illegal hl, by simp⟩
    obtain ⟨st, k, hst⟩ := some_status
    obtain ⟨-, bank, counted, same⟩ := refuseHold_fields h st
    rw [refused st k hst]
    exact ⟨bank p, counted, same⟩

/-! ## An accepted PLACE_HOLD (R45, R48) -/

/-- The hold of an accepted placement. -/
def placedHold (a : HoldArgs) (tag : BitVec 16) : Hold :=
  { tag := tag, kind := if a.kind = 0 then .firm else .yielding, first := a.first, last := a.last
    interval := a.interval, remaining := a.interval, ticks := 0, window := a.window }

/-- A port's side of the hold table with a hold of the next tag in slot `i`. -/
def placedBank (b : HoldBank) (i : Fin 16) (a : HoldArgs) : HoldBank :=
  { b.setSlot i (some (placedHold a (b.tagCounter + 1))) with tagCounter := b.tagCounter + 1 }

theorem placedBank_hold (b : HoldBank) (i j : Fin 16) (a : HoldArgs) :
    (placedBank b i a).hold j = if j = i then some (placedHold a (b.tagCounter + 1)) else b.hold j :=
  setSlot_hold b i j _

/-- A placement is counted (R48). -/
def placementCounted (c : HoldCounters) : HoldCounters := { c with placed := sat c.placed 1 }

theorem placeHold_accepted {r : Passed} {a : HoldArgs} {s : State} {i : Fin 16} (hs : placeStatus r.port a s = .ok)
    (hi : (s.bank r.port).freeSlot = some i) :
    placeHold r a s =
      answer r .ok 0 [⟨0, 1, i.val⟩, ⟨2, 2, ((s.bank r.port).tagCounter + 1).toNat⟩]
        (holdsSet r.port (placedBank (s.bank r.port) i a) s.writer placementCounted s) := by
  unfold placeHold
  rw [hs, hi]
  cases r.port <;> rfl

/-- Settles O43: with the checks passed the lowest FREE slot takes the hold. -/
theorem holdIsPlaced : Obligations.HoldIsPlaced := by
  unfold Obligations.HoldIsPlaced
  intro p s r a i h hr hs hi hl tag
  obtain ⟨rfl, -⟩ := Waits.port h
  have lowest : ((s.without r.port 0x08).bank r.port).freeSlot = some i := by
    rw [without_bank]; exact freeSlot_some hi hl
  have placed : ∃ t, exec (.placeHold r.port) s = .next t ∧
      Replied s t r .ok 0 [⟨0, 1, i.val⟩, ⟨2, 2, tag.toNat⟩] ∧
      HoldsLeft r.port (placedBank (s.bank r.port) i a) s.writer placementCounted s t := by
    have run := exec_placeHold h hr
    rw [placeHold_accepted (s := s.without r.port 0x08) hs lowest, without_bank] at run
    exact ⟨_, run, replied_holdsSet h _ _ _ _ _ _, holdsLeft_answer _ _ s.writer _ r _ _ _ s _⟩
  obtain ⟨t, run, replied, bank, otherBank, counters, catalog, blocks, mem, engine, writer, faults⟩ := placed
  refine ⟨t, run, replied, ?_, by rw [bank]; rfl, fun j hj => ?_, by rw [bank]; rfl, otherBank, counters, catalog, blocks,
    mem, engine, writer, faults⟩
  · rw [bank, placedBank_hold, if_pos rfl]; rfl
  · rw [bank, placedBank_hold, if_neg hj]

/-! ## The hold that a request names (R50, R51) -/

/-- Slot `slot` is FREE or its hold has another tag. -/
def Unnamed (b : HoldBank) (slot : Nat) (tag : BitVec 16) : Prop :=
  ∃ i : Fin 16, i.val = slot ∧ ∀ h, b.hold i = some h → h.tag ≠ tag

/-- A slot number is above 15, or its slot does not have the tag, or it names a hold. -/
theorem named_cases (b : HoldBank) (slot : Nat) (tag : BitVec 16) :
    (15 < slot ∨ Unnamed b slot tag) ∨ ∃ i h, i.val = slot ∧ b.hold i = some h ∧ h.tag = tag := by
  by_cases hs : 15 < slot
  · exact .inl (.inl hs)
  · by_cases hn : ∃ h, b.hold ⟨slot, by omega⟩ = some h ∧ h.tag = tag
    · obtain ⟨h, hh, ht⟩ := hn
      exact .inr ⟨_, h, rfl, hh, ht⟩
    · exact .inl (.inr ⟨_, rfl, fun h hh ht => hn ⟨h, hh, ht⟩⟩)

/-- What names no hold is refused with some status. -/
theorem named_refused {b : HoldBank} {slot : Nat} {tag : BitVec 16} (h : 15 < slot ∨ Unnamed b slot tag) :
    ∃ st, b.named slot tag = .error st := by
  rcases h with h | ⟨i, hi, h⟩
  · exact ⟨_, named_range h⟩
  · exact ⟨_, named_unknown hi h⟩

/-- The two refusals of a request that names no hold (R50, R51): both leave the holds and are counted. -/
structure NameRefused (r : Passed) (slot : Nat) (tag : BitVec 16) (s t : State) : Prop where
  range : 15 < slot → Replied s t r .range 0 []
  unknown :
    ∀ i : Fin 16, i.val = slot → (∀ h, (s.bank r.port).hold i = some h → h.tag ≠ tag) → Replied s t r .unknownHold 0 []
  kept :
    15 < slot ∨ Unnamed (s.bank r.port) slot tag →
      t.bank r.port = s.bank r.port ∧ t.counters.holds = refusalCounted s.counters.holds

theorem nameRefused_of {r : Passed} {slot : Nat} {tag : BitVec 16} {s t : State}
    (h : ∀ {st}, (s.bank r.port).named slot tag = .error st →
      HoldAnswered r st (s.bank r.port) s.writer refusalCounted s t) : NameRefused r slot tag s t := by
  refine ⟨fun hs => (h (named_range hs)).replied, fun i hi hn => (h (named_unknown hi hn)).replied, fun hn => ?_⟩
  obtain ⟨st, hst⟩ := named_refused hn
  obtain ⟨-, left⟩ := h hst
  exact ⟨left.bank, by rw [left.counters]⟩

/-! ## RENEW_HOLD (R50) -/

theorem exec_renewHold {s : State} {p : Port} {r : Passed} {slot : Nat} {tag : BitVec 16} (h : Waits s p 0x09 r)
    (hr : r.request = .renewHold slot tag) :
    exec (.renewHold p) s = .next (renewHold r slot tag (s.without p 0x09)) := by
  show execRenewHold p s = _
  unfold execRenewHold
  rw [takePassed_of h.oldest]
  dsimp only
  rw [hr]

theorem renewHold_refused {r : Passed} {slot : Nat} {tag : BitVec 16} {s : State} {st : Status}
    (h : (s.bank r.port).named slot tag = .error st) : renewHold r slot tag s = refuseHold r st s := by
  unfold renewHold
  rw [h]

/-- The hold with its full interval remaining and its timer at the start. -/
def renewedHold (h : Hold) : Hold := { h with remaining := h.interval, ticks := 0 }

/-- A renewal is counted (R50). -/
def renewalCounted (c : HoldCounters) : HoldCounters := { c with renewed := sat c.renewed 1 }

theorem renewHold_named {r : Passed} {slot : Nat} {tag : BitVec 16} {s : State} {i : Fin 16} {h : Hold}
    (hn : (s.bank r.port).named slot tag = .ok (i, h)) :
    renewHold r slot tag s =
      answer r .ok 0 []
        (holdsSet r.port ((s.bank r.port).setSlot i (some (renewedHold h))) s.writer renewalCounted s) := by
  unfold renewHold
  rw [hn]
  cases r.port <;> rfl

/-- Settles O45: a request that names no hold is refused, and one that names a hold starts its timer again. -/
theorem holdIsRenewed : Obligations.HoldIsRenewed := by
  unfold Obligations.HoldIsRenewed
  intro p s r slot tag h hr
  obtain ⟨rfl, -⟩ := Waits.port h
  have refused : ∀ {st}, (s.bank r.port).named slot tag = .error st →
      HoldAnswered r st (s.bank r.port) s.writer refusalCounted s (renewHold r slot tag (s.without r.port 0x09)) := by
    intro st hn
    rw [renewHold_refused (by rw [without_bank]; exact hn)]
    exact holdAnswered_refuse h st
  have renewed : ∀ {i : Fin 16} {x : Hold}, i.val = slot → (s.bank r.port).hold i = some x → x.tag = tag →
      HoldAnswered r .ok ((s.bank r.port).setSlot i (some (renewedHold x))) s.writer renewalCounted s
        (renewHold r slot tag (s.without r.port 0x09)) := by
    intro i x hi hx ht
    rw [renewHold_named (by rw [without_bank]; exact named_ok hi hx ht), without_bank]
    exact holdAnswered_answer h .ok _ _ _
  refine ⟨_, exec_renewHold h hr, ?_⟩
  generalize renewHold r slot tag (s.without r.port 0x09) = t at refused renewed
  have left : ∃ b f, b.tagCounter = (s.bank r.port).tagCounter ∧ HoldsLeft r.port b s.writer f s t := by
    rcases named_cases (s.bank r.port) slot tag with hn | ⟨i, x, hi, hx, ht⟩
    · obtain ⟨st, hst⟩ := named_refused hn
      exact ⟨s.bank r.port, _, rfl, (refused hst).left⟩
    · exact ⟨(s.bank r.port).setSlot i (some (renewedHold x)), _, rfl, (renewed hi hx ht).left⟩
  obtain ⟨b, f, hb, bank, otherBank, -, catalog, blocks, mem, -, writer, faults⟩ := left
  obtain ⟨range, unknown, kept⟩ := nameRefused_of refused
  refine ⟨range, unknown, kept, fun i x hi hx ht => ?timer, by rw [bank, hb], otherBank, catalog, blocks, mem, writer,
    faults⟩
  case timer =>
    obtain ⟨replied, left⟩ := renewed hi hx ht
    exact ⟨replied, left.slots.1, left.slots.2, by rw [left.counters]; rfl⟩

/-! ## RELEASE_HOLD (R51) -/

theorem exec_releaseHold {s : State} {p : Port} {r : Passed} {slot : Nat} {tag : BitVec 16} (h : Waits s p 0x0A r)
    (hr : r.request = .releaseHold slot tag) :
    exec (.releaseHold p) s = .next (releaseHold r slot tag (s.without p 0x0A)) := by
  show execReleaseHold p s = _
  unfold execReleaseHold
  rw [takePassed_of h.oldest]
  dsimp only
  rw [hr]

theorem releaseHold_refused {r : Passed} {slot : Nat} {tag : BitVec 16} {s : State} {st : Status}
    (h : (s.bank r.port).named slot tag = .error st) : releaseHold r slot tag s = refuseHold r st s := by
  unfold releaseHold
  rw [h]

/-- A release is counted (R51). -/
def releaseCounted (c : HoldCounters) : HoldCounters := { c with released := sat c.released 1 }

/-- The slot that the request names becomes FREE, and a writer starved for a block is offered one. -/
theorem releaseHold_named {r : Passed} {slot : Nat} {tag : BitVec 16} {s : State} {i : Fin 16} {h : Hold}
    (hh : (s.bank r.port).hold i = some h) (hn : (s.bank r.port).named slot tag = .ok (i, h)) :
    ∃ w,
      releaseHold r slot tag s =
        answer r .ok 0 [] (holdsSet r.port ((s.bank r.port).setSlot i none) w releaseCounted s) ∧
        (s.writer.state = .starved → s.writer.waiting = some .takeBlock → w.offered = true) := by
  obtain ⟨w, freed, offered⟩ := freeHold_fields r.port i s h hh
  refine ⟨w, ?_, offered⟩
  unfold releaseHold
  rw [hn]
  dsimp only
  rw [freed]
  rfl

/-- Settles O46: a request that names no hold is refused, and one that names a hold ends it. -/
theorem holdIsReleased : Obligations.HoldIsReleased := by
  unfold Obligations.HoldIsReleased
  intro p s r slot tag h hr
  obtain ⟨rfl, -⟩ := Waits.port h
  have refused : ∀ {st}, (s.bank r.port).named slot tag = .error st →
      HoldAnswered r st (s.bank r.port) s.writer refusalCounted s (releaseHold r slot tag (s.without r.port 0x0A)) := by
    intro st hn
    rw [releaseHold_refused (by rw [without_bank]; exact hn)]
    exact holdAnswered_refuse h st
  have released : ∀ {i : Fin 16} {x : Hold}, i.val = slot → (s.bank r.port).hold i = some x → x.tag = tag →
      ∃ w,
        HoldAnswered r .ok ((s.bank r.port).setSlot i none) w releaseCounted s
          (releaseHold r slot tag (s.without r.port 0x0A)) ∧
          (s.writer.state = .starved → s.writer.waiting = some .takeBlock → w.offered = true) := by
    intro i x hi hx ht
    obtain ⟨w, e, offered⟩ := releaseHold_named (r := r) (s := s.without r.port 0x0A) (by rw [without_bank]; exact hx)
      (by rw [without_bank]; exact named_ok hi hx ht)
    rw [e, without_bank]
    exact ⟨w, holdAnswered_answer h .ok _ _ _, offered⟩
  refine ⟨_, exec_releaseHold h hr, ?_⟩
  generalize releaseHold r slot tag (s.without r.port 0x0A) = t at refused released
  have left : ∃ b w f, b.reads = (s.bank r.port).reads ∧ HoldsLeft r.port b w f s t := by
    rcases named_cases (s.bank r.port) slot tag with hn | ⟨i, x, hi, hx, ht⟩
    · obtain ⟨st, hst⟩ := named_refused hn
      exact ⟨s.bank r.port, _, _, rfl, (refused hst).left⟩
    · obtain ⟨w, k, -⟩ := released hi hx ht
      exact ⟨(s.bank r.port).setSlot i none, w, _, rfl, k.left⟩
  obtain ⟨b, w, f, hb, bank, otherBank, -, catalog, blocks, mem, -, -, faults⟩ := left
  obtain ⟨range, unknown, kept⟩ := nameRefused_of refused
  refine ⟨range, unknown, kept, fun i x hi hx ht => ?free, by rw [bank, hb], otherBank, catalog, blocks, mem, faults⟩
  case free =>
    obtain ⟨w, ⟨replied, left⟩, offered⟩ := released hi hx ht
    exact ⟨replied, left.slots.1, left.slots.2, by rw [left.counters]; rfl, fun hs hw => left.writer ▸ offered hs hw⟩

end Sys2Proof.Proofs
end

section
/-! PROOF. The read aperture: the decoding of a window read, and the errors of a read, a write and a timeout. -/

namespace Sys2Proof.Proofs

open Sys2Proof.Machine Sys2Proof.Laws

/-! ## Aperture errors (R59, R60, R65, R66) -/

/-- A flag `fl` of port `p` has been set, an event counted by `cf`, and a fault of the port's unit reported, with nothing
else done but the entries, notices and link output that follow. -/
structure ErrorNoted (p : Port) (fl : PortUnit → PortUnit) (cf : PortCounters → PortCounters) (k : FaultKind) (d : Nat)
    (s t : State) : Prop where
  counts : { t.counters.port p with noticesMissed := 0 } = { cf (s.counters.port p) with noticesMissed := 0 }
  fault : FaultReported s t (portFault p) k d
  same : SameBlocks s t
  apart : t.apartFromNotices = (countPort p cf s).apartFromNotices
  port : PortKept (fl (s.port p)) (t.port p)
  otherPort : PortKept (s.port p.other) (t.port p.other)

theorem errorNoted (p : Port) (fl : PortUnit → PortUnit) (cf : PortCounters → PortCounters) (k : FaultKind) (d : Nat)
    (s : State) : ErrorNoted p fl cf k d s (logFault (portFault p) k d (countPort p cf (modifyPort p fl s))) := by
  obtain ⟨-, counts, fault, same, apart, port, otherPort⟩ := flagCountLog p fl cf (portFault p) k d s
  exact ⟨counts, fault, same, apart, port, otherPort⟩

section
variable {p : Port} {fl : PortUnit → PortUnit} {cf : PortCounters → PortCounters} {k : FaultKind} {d : Nat} {s t : State}

/-- The response on the link is put behind what the report sent. -/
theorem ErrorNoted.emit (h : ErrorNoted p fl cf k d s t) (e : LinkEvent) : ErrorNoted p fl cf k d s (emit p e t) :=
  ⟨by rw [emit_counters]; exact h.counts, faultReported_congr h.fault rfl (emit_faults p e t),
    sameBlocks_trans h.same (sameBlocks_emit p e t), (told_emit p e t).view.trans h.apart, portKept_emit h.port,
    portKept_emit_any h.otherPort⟩

/-- An event counted before the error. -/
theorem ErrorNoted.counted {f : PortCounters → PortCounters} (h : ErrorNoted p fl cf k d (countPort p f s) t) :
    ErrorNoted p fl (fun c => cf (f c)) k d s t := by
  obtain ⟨counts, fault, same, apart, port, otherPort⟩ := h
  rw [countPort_counters_port] at counts
  rw [countPort_port] at port otherPort
  exact ⟨counts, faultReported_congr fault (countPort_faults p f s).symm rfl,
    sameBlocks_trans (sameBlocks_countPort p f s) same, apart.trans (by cases p <;> rfl), port, otherPort⟩

end

theorem emit_last (p : Port) (e : LinkEvent) (s : State) : ((emit p e s).port p).link.getLast? = some e := by
  rw [emit_port]
  exact List.getLast?_concat

/-! ## The decoding of a read (R58 to R60) -/

theorem exec_windowRead {p : Port} {a n : Nat} {s : State} (ha : a < 68719476736) (h1 : 1 ≤ n) (h2 : n ≤ 256) :
    exec (.windowRead p a n) s = .next (windowRead p a n s) :=
  if_pos (transaction_wellFormed a n ha h1 h2)

/-- The state in which a window read has been counted. -/
def readCounted (p : Port) (s : State) : State :=
  countPort p (fun c => { c with windowReads := sat c.windowReads 1 }) s

@[simp] theorem readCounted_bank (p q : Port) (s : State) : (readCounted p s).bank q = s.bank q := countPort_bank p q _ s

@[simp] theorem readCounted_port (p q : Port) (s : State) : (readCounted p s).port q = s.port q := countPort_port p q _ s

theorem windowRead_unmapped {p : Port} {a : Nat} {s : State} (h : (s.bank p).answering a = []) (n : Nat) :
    windowRead p a n s = unmappedRead p a (readCounted p s) := by
  have k : ((readCounted p s).bank p).answering a = [] := by rw [readCounted_bank]; exact h
  unfold readCounted at k ⊢
  unfold windowRead
  dsimp only
  rw [k]

theorem windowRead_mapped {p : Port} {a : Nat} {i : Fin 16} {s : State} (h : (s.bank p).answering a = [i]) (n : Nat) :
    windowRead p a n s = answerBySlot p i a n (readCounted p s) := by
  have k : ((readCounted p s).bank p).answering a = [i] := by rw [readCounted_bank]; exact h
  unfold readCounted at k ⊢
  unfold windowRead
  dsimp only
  rw [k]

theorem windowRead_conflict {p : Port} {a : Nat} {i j : Fin 16} {more : List (Fin 16)} {s : State}
    (h : (s.bank p).answering a = i :: j :: more) (n : Nat) :
    windowRead p a n s =
      if (s.port p).conflictErrorEnable then emit p (.readError a) (decodeConflict p a (readCounted p s))
      else answerBySlot p i a n (decodeConflict p a (readCounted p s)) := by
  have k : ((readCounted p s).bank p).answering a = i :: j :: more := by rw [readCounted_bank]; exact h
  have e : ((readCounted p s).port p).conflictErrorEnable = (s.port p).conflictErrorEnable := by rw [readCounted_port]
  rw [← e]
  unfold readCounted at k ⊢
  unfold windowRead
  dsimp only
  rw [k]

/-- Settles O28: an unmapped read is counted and noted as an error, and the error response stands last on the link. -/
theorem unmappedReadIsAnError : Obligations.UnmappedReadIsAnError := by
  unfold Obligations.UnmappedReadIsAnError
  intro p a n s ha h1 h2 hw
  have noted := ((errorNoted p (fun u => { u with unmappedRead := true })
    (fun c => { c with unmappedReads := sat c.unmappedReads 1 }) .unmappedRead a (readCounted p s)).emit
      (.readError a)).counted
  refine ⟨_, by rw [exec_windowRead ha h1 h2, windowRead_unmapped (answering_nil hw)], ?_⟩
  change ErrorNoted _ _ _ _ _ s (unmappedRead p a (readCounted p s)) at noted
  have last : ((unmappedRead p a (readCounted p s)).port p).link.getLast? = some (.readError a) := emit_last p _ _
  generalize unmappedRead p a (readCounted p s) = t at noted last
  obtain ⟨counts, fault, -, apart, port, otherPort⟩ := noted
  exact ⟨last, congrArg PortUnit.unmappedRead port.rest, congrArg PortCounters.unmappedReads counts,
    congrArg PortCounters.windowReads counts, fault, apart, port, otherPort⟩

/-- Settles O29: a conflict is counted and noted as an error; then the conflict-error enable decides on the answer. -/
theorem decodeConflictIsReported : Obligations.DecodeConflictIsReported := by
  unfold Obligations.DecodeConflictIsReported
  intro p a n i j more s ha h1 h2 hw
  have noted : ErrorNoted p _ _ _ a s (decodeConflict p a (readCounted p s)) :=
    (errorNoted p (fun u => { u with decodeConflict := true })
      (fun c => { c with decodeConflicts := sat c.decodeConflicts 1 }) .decodeConflict a (readCounted p s)).counted
  refine ⟨decodeConflict p a (readCounted p s), _, by rw [exec_windowRead ha h1 h2, windowRead_conflict hw], ?_⟩
  generalize decodeConflict p a (readCounted p s) = u at noted
  obtain ⟨counts, fault, -, apart, port, otherPort⟩ := noted
  exact ⟨congrArg PortUnit.decodeConflict port.rest, congrArg PortCounters.decodeConflicts counts,
    congrArg PortCounters.windowReads counts, fault, apart, port, otherPort, fun he => if_pos he,
    fun he => if_neg (by simp [he])⟩

/-! ## A write to the aperture (R66) -/

/-- The state in which a write of the aperture has been noted as an error, before its response. -/
def writeNoted (p : Port) (a : Nat) (s : State) : State :=
  logFault (portFault p) .writeViolation a
    (countPort p (fun c => { c with writeViolations := sat c.writeViolations 1 })
      (modifyPort p (fun u => { u with writeViolation := true }) s))

/-- The response to a write of the aperture. -/
def writeResponse (p : Port) (a : Nat) (s : State) : LinkEvent :=
  if (s.port p).writeErrorEnable then .apertureError a else .apertureAck a

theorem exec_apertureWrite {p : Port} {a : Nat} {bytes : List Byte} {s : State} (ha : a < 68719476736)
    (h1 : 1 ≤ bytes.length) (h2 : bytes.length ≤ 256) :
    exec (.apertureWrite p a bytes) s = .next (emit p (writeResponse p a s) (writeNoted p a s)) :=
  if_pos (transaction_wellFormed a bytes.length ha h1 h2)

/-- Settles O33: the write is noted as an error and its bytes go nowhere; the write-error enable names the response. -/
theorem apertureWriteIsDiscarded : Obligations.ApertureWriteIsDiscarded := by
  unfold Obligations.ApertureWriteIsDiscarded
  intro p a bytes s ha h1 h2
  have noted : ErrorNoted p _ _ _ a s (emit p (writeResponse p a s) (writeNoted p a s)) :=
    (errorNoted p (fun u => { u with writeViolation := true })
      (fun c => { c with writeViolations := sat c.writeViolations 1 }) .writeViolation a s).emit _
  have last := emit_last p (writeResponse p a s) (writeNoted p a s)
  refine ⟨_, exec_apertureWrite ha h1 h2, ?_⟩
  generalize emit p (writeResponse p a s) (writeNoted p a s) = t at noted last
  obtain ⟨counts, fault, same, apart, port, otherPort⟩ := noted
  obtain ⟨-, -, -, -, -, -, -, -, mem, -⟩ := sameBlocks_iff.mp same
  exact ⟨fun x => by rw [mem], congrArg PortUnit.writeViolation port.rest,
    congrArg PortCounters.writeViolations counts, fault, fun he => last.trans (congrArg some (if_pos he)),
    fun he => last.trans (congrArg some (if_neg (by simp [he]))), apart, port, otherPort⟩

/-! ## A read not answered in time (R65) -/

theorem exec_readTimeout_some {p : Port} {n : Nat} {s : State} {r : ReadInFlight} (h : (s.bank p).reads[n]? = some r) :
    exec (.readTimeout p n) s = .next (timeoutRead p r s) := by
  show execReadTimeout p n s = _
  unfold execReadTimeout
  rw [h]

theorem exec_readTimeout_none {p : Port} {n : Nat} {s : State} (h : (s.bank p).reads[n]? = none) :
    exec (.readTimeout p n) s = .next s := by
  show execReadTimeout p n s = _
  unfold execReadTimeout
  rw [h]

/-- Settles O32: the read ends, and its timeout is noted as an error. -/
theorem readTimesOut : Obligations.ReadTimesOut := by
  unfold Obligations.ReadTimesOut
  intro p n s
  refine ⟨fun r hr => ?timesOut, exec_readTimeout_none⟩
  have noted : ErrorNoted p _ _ _ r.addr (endRead p r.id s) (timeoutRead p r s) :=
    (errorNoted p (fun u => { u with readTimeout := true }) (fun c => { c with readTimeouts := sat c.readTimeouts 1 })
      .readTimeout r.addr (endRead p r.id s)).emit (.readError r.addr)
  have last : ((timeoutRead p r s).port p).link.getLast? = some (.readError r.addr) := emit_last p _ _
  refine ⟨_, exec_readTimeout_some hr, last, ?_⟩
  obtain ⟨port0, port1, counters, faults, cells, catalog, blocks, engine, writer, bank, otherBank⟩ := endRead_fields p r.id s
  have ports := port_of port0 port1
  generalize endRead p r.id s = u at *
  generalize timeoutRead p r s = t at *
  obtain ⟨counts, fault, same, -, port, otherPort⟩ := noted
  obtain ⟨catalog', blocks', bank0, bank1, engine', writer', -, -, mem, -⟩ := sameBlocks_iff.mp same
  have banks := bank_of bank0 bank1
  rw [counters] at counts
  rw [ports] at port otherPort
  refine ⟨congrArg PortUnit.readTimeout port.rest, congrArg PortCounters.readTimeouts counts,
    faultReported_congr fault faults.symm rfl, by rw [banks, bank], fun i => by rw [banks, bank]; rfl,
    (banks _).trans otherBank, by rw [mem, cells], catalog'.trans catalog, blocks'.trans blocks, engine'.trans engine,
    writer'.trans writer, port, otherPort⟩

end Sys2Proof.Proofs
end

section
/-! PROOF. Window reads: their translation to capture addresses, and the burst that answers one. -/

namespace Sys2Proof.Proofs

open Sys2Proof.Machine Sys2Proof.Laws

/-! ## The translation of a read in one record of one block (R61, R62) -/

/-- The one run of a read of `n` bytes from offset `o` of record `k`, whose frames stand in block `b`. -/
def oneRun (b k : Nat) (d : DataFields) (epoch : BitVec 16) (o n : Nat) : ReadRun :=
  { addr := b * 4194304 + d.startOffset * d.frameSize + o, len := n, record := k, epoch := epoch, data := none }

theorem windowRecords_one {s : State} {h : Hold} {e : Entry} {d : DataFields}
    (hr : s.catalog.range h.first h.last = [e]) (hd : e.body = .data d) : s.windowRecords h = [(e.number, d)] := by
  unfold State.windowRecords
  rw [hr]
  simp [Entry.data?, hd]

/-- A byte of a record that stands whole in block `b`, and the room behind it. -/
theorem recordAddress_one {s : State} {d : DataFields} {b o : Nat} (hb : s.chainOf d.firstBlock = [b])
    (ho : d.startOffset * d.frameSize + o < framesPerBlock d.frameSize * d.frameSize) :
    s.recordAddress d o =
      some (b * 4194304 + (d.startOffset * d.frameSize + o),
        framesPerBlock d.frameSize * d.frameSize - (d.startOffset * d.frameSize + o)) := by
  unfold State.recordAddress
  dsimp only
  rw [hb, Nat.div_eq_of_lt ho, Nat.mod_eq_of_lt ho]
  rfl

/-- A read inside the record's bytes is one run. -/
theorem translate_inside {s : State} {k : Nat} {d : DataFields} {b o n : Nat} (hb : s.chainOf d.firstBlock = [b])
    (hf : d.startOffset * d.frameSize + d.bytes ≤ framesPerBlock d.frameSize * d.frameSize) (hn : 1 ≤ n)
    (ho : o + n ≤ d.bytes) :
    s.translate [(k, d)] (n + 1) o n = [.run (oneRun b k d s.catalog.epoch o n)] := by
  have found : locate [(k, d)] o = some (k, d, o) := if_pos (by omega)
  have rest : s.translate [(k, d)] n (o + n) 0 = [] := by cases n <;> rfl
  have whole :
      min n (min (framesPerBlock d.frameSize * d.frameSize - (d.startOffset * d.frameSize + o)) (d.bytes - o)) = n := by
    omega
  unfold State.translate
  rw [if_neg (by omega), found]
  dsimp only
  rw [recordAddress_one hb (by omega)]
  dsimp only
  rw [whole, Nat.sub_self, rest, ← Nat.add_assoc]
  rfl

/-- A read that begins past the record's bytes is zeros. -/
theorem translate_past {s : State} {k : Nat} {d : DataFields} {o n : Nat} (hn : 1 ≤ n) (ho : d.bytes ≤ o) :
    s.translate [(k, d)] (n + 1) o n = [.zeros n] := by
  have none_found : locate [(k, d)] o = none := if_neg (by omega)
  unfold State.translate
  rw [if_neg (by omega), none_found]

/-- A read whole inside its window is translated from its window offset. -/
theorem readPieces_inside {s : State} {h : Hold} {w : Window} {a n : Nat} (hw : a + n ≤ w.base + w.size) :
    s.readPieces h w a n = s.translate (s.windowRecords h) (n + 1) (a - w.base) n := by
  have inside : min n (w.base + w.size - a) = n := by omega
  unfold State.readPieces
  dsimp only
  rw [inside, if_neg (by omega), List.append_nil]

/-! ## Serving a translated read (R62, R63) -/

theorem answerBySlot_window {p : Port} {i : Fin 16} {s : State} {h : Hold} {w : Window}
    (hh : (s.bank p).hold i = some h) (hw : h.window = some w) (a n : Nat) :
    answerBySlot p i a n s = serveRead p a n (s.readPieces h w a n) s := by
  unfold answerBySlot
  rw [hh]
  dsimp only
  rw [hw]

/-- What serving a read leaves, whatever its pieces. -/
structure ReadServed (p : Port) (s t : State) : Prop where
  reads : (t.counters.port p).windowReads = (s.counters.port p).windowReads
  cells : t.mem.cells = s.mem.cells
  catalog : t.catalog = s.catalog
  blocks : t.blocks = s.blocks

/-- The state in which a read of these pieces is in flight and its bursts are asked (R63), before the arbiter's grant. -/
def readAsked (p : Port) (a n : Nat) (pieces : List Piece) (s : State) : State :=
  let id := (s.bank p).nextRead
  let s1 :=
    modifyBank p
      (fun b =>
        { b with
          nextRead := id + 1
          reads := b.reads ++ [{ id := id, addr := a, len := n, pieces := pieces, age := 0 }] }) s
  { s1 with mem := s1.mem.setWindowAsk p (s1.mem.windowAsk p ++ readBursts p id 0 pieces) }

theorem serveRead_asked {p : Port} {a n : Nat} {pieces : List Piece} {s : State} (h : readBytes pieces = none) :
    serveRead p a n pieces s = arbitrate (readAsked p a n pieces s) := by
  unfold serveRead
  rw [h]
  rfl

theorem serveRead_answered {p : Port} {a n : Nat} {pieces : List Piece} {s : State} {bytes : List Byte}
    (h : readBytes pieces = some bytes) : serveRead p a n pieces s = answerRead p a pieces bytes s := by
  unfold serveRead
  rw [h]

theorem readServed_serveRead (p : Port) (a n : Nat) (pieces : List Piece) (s : State) :
    ReadServed p s (serveRead p a n pieces s) := by
  cases h : readBytes pieces with
  | none =>
    rw [serveRead_asked h]
    obtain ⟨counters, catalog, blocks, -, cells⟩ := arbitrate_rest (readAsked p a n pieces s)
    refine ⟨?_, ?_, ?_, ?_⟩
    · rw [counters]; cases p <;> rfl
    · rw [cells]; cases p <;> rfl
    · rw [catalog]; cases p <;> rfl
    · rw [blocks]; cases p <;> rfl
  | some bytes =>
    rw [serveRead_answered h]
    cases p <;> exact ⟨rfl, rfl, rfl, rfl⟩

/-- The state after a read has been answered with its data. -/
structure ReadAnswered (p : Port) (a : Nat) (pieces : List Piece) (bytes : List Byte) (s t : State) : Prop where
  link : (t.port p).link = (s.port p).link ++ [.readData a bytes]
  overReads :
    (t.counters.port p).overReads =
      if pieces.any Piece.isZero then sat (s.counters.port p).overReads 1 else (s.counters.port p).overReads
  bytesRead : (t.counters.port p).bytesRead = sat (s.counters.port p).bytesRead bytes.length
  bank : ∀ q, t.bank q = s.bank q
  mem : t.mem = s.mem
  catalog : t.catalog = s.catalog
  blocks : t.blocks = s.blocks
  faults : t.faults = s.faults

theorem readAnswered_answerRead (p : Port) (a : Nat) (pieces : List Piece) (bytes : List Byte) (s : State) :
    ReadAnswered p a pieces bytes s (answerRead p a pieces bytes s) := by
  cases p <;> exact ⟨rfl, rfl, rfl, fun q => by cases q <;> rfl, rfl, rfl, rfl, rfl⟩

/-- Settles O30: the read is counted; its window's slot translates it to one run, or to zeros. -/
theorem windowReadIsTranslated : Obligations.WindowReadIsTranslated := by
  unfold Obligations.WindowReadIsTranslated
  intro p a n b i h w e d s ha h1 h2 hans hh hw hfit hr hd hb hfs hblock
  have base : w.base ≤ a := (answering_mem (by rw [hans]; exact List.mem_singleton_self i) hh hw).1
  have records : (readCounted p s).windowRecords h = [(e.number, d)] :=
    windowRecords_one (by unfold readCounted; rw [countPort_catalog]; exact hr) hd
  have served : windowRead p a n s =
      serveRead p a n ((readCounted p s).translate [(e.number, d)] (n + 1) (a - w.base) n) (readCounted p s) := by
    rw [windowRead_mapped hans, answerBySlot_window (by rw [readCounted_bank]; exact hh) hw, readPieces_inside hfit, records]
  have chain : (readCounted p s).chainOf d.firstBlock = [b] := by
    unfold State.chainOf readCounted; rw [countPort_blocks]; exact hb
  obtain ⟨reads, cells, catalog, blocks⟩ := readServed_serveRead p a n
    ((readCounted p s).translate [(e.number, d)] (n + 1) (a - w.base) n) (readCounted p s)
  rw [← served] at reads cells catalog blocks
  refine ⟨_, exec_windowRead ha h1 h2, fun hin => ?inside, fun hpast => ?past, ?reads, ?cells, ?catalog, ?blocks⟩
  case inside =>
    rw [served, translate_inside chain hblock h1 hin, serveRead_asked rfl]
    have left := arbitrate_port (readAsked p a n [.run (oneRun b e.number d (readCounted p s).catalog.epoch (a - w.base) n)]
      (readCounted p s)) p
    rw [left.1, left.2]
    cases p <;> exact ⟨rfl, rfl⟩
  case past =>
    rw [served, translate_past h1 hpast, serveRead_answered (bytes := List.replicate n 0) (by simp [readBytes, Piece.bytes])]
    obtain ⟨link, overReads, bytesRead, bank, -⟩ := readAnswered_answerRead p a [.zeros n] (List.replicate n 0) (readCounted p s)
    rw [List.length_replicate] at bytesRead
    rw [readCounted_port] at link
    rw [link, overReads, bytesRead, bank, readCounted_bank]
    cases p <;> exact ⟨rfl, rfl, rfl, rfl⟩
  case reads => rw [reads]; cases p <;> rfl
  case cells => rw [cells]; cases p <;> rfl
  case catalog => rw [catalog]; cases p <;> rfl
  case blocks => rw [blocks]; cases p <;> rfl

/-! ## The burst of a window read (R63, R146) -/

/-- With no bit of its granules flipped a burst returns the bytes of capture memory, and no granule is bad. -/
theorem readBurst_clean {m : MemService} {addr len : Nat} (h : ∀ g ∈ granulesOf addr len, m.flips g = 0) :
    (m.readBurst addr len).data = (List.range len).map (fun i => Memory.read (addr + i) m.cells) ∧
      (m.readBurst addr len).bad = [] := by
  refine ⟨?data, List.filter_eq_nil_iff.mpr fun g hg => by simp [h g hg]⟩
  case data =>
    show (natsFrom addr len).map m.returned = _
    rw [natsFrom_range, List.map_map]
    refine List.map_congr_left fun i hi => ?_
    have clean := h _ (mem_granulesOf (Nat.le_add_right addr i) (Nat.add_lt_add_left (List.mem_range.mp hi) addr))
    show m.returned (addr + i) = _
    unfold MemService.returned
    rw [if_neg (by omega)]
    rfl

/-- The state in which the memory service has taken a burst of result `r`. -/
def burstRead (ks : List Strike) (r : ReadResult) (s : State) : State := readEffects r (releaseGrant (strikeAll ks s))

theorem exec_windowReadBurstDone {s : State} {b : WindowBurst} (ks : List Strike) (hb : s.mem.busy = some (.window b))
    (hc : b.addr + b.len ≤ 34359738368) :
    exec (.windowReadBurstDone ks) s =
      .next
        (arbitrate
          (windowBurstDone b ((strikeAll ks s).mem.readBurst b.addr b.len)
            (burstRead ks ((strikeAll ks s).mem.readBurst b.addr b.len) s))) := by
  have inside : inCapture b.addr b.len = true := decide_eq_true hc
  show execWindowReadBurstDone ks s = _
  unfold execWindowReadBurstDone
  rw [hb]
  dsimp only
  rw [if_pos inside]
  rfl

/-- What a burst with no bad granule leaves before its data joins the read. -/
structure CleanBurst (s u : State) : Prop where
  port : ∀ q, u.port q = s.port q
  bank : ∀ q, u.bank q = s.bank q
  counters : ∀ q, u.counters.port q = s.counters.port q
  cells : u.mem.cells = s.mem.cells
  catalog : u.catalog = s.catalog
  blocks : u.blocks = s.blocks
  faults : u.faults = s.faults

theorem cleanBurst {r : ReadResult} (h : r.bad = []) (ks : List Strike) (s : State) :
    CleanBurst s (burstRead ks r s) := by
  unfold burstRead readEffects
  rw [h]
  exact ⟨fun q => by cases q <;> rfl, fun q => by cases q <;> rfl, fun q => by cases q <;> rfl, rfl, rfl, rfl, rfl⟩

/-- The data of the one run of a read answers it. -/
theorem fillRead_one {b : WindowBurst} {r : ReadInFlight} {k : ReadRun} (hp : r.pieces = [.run k]) (h0 : b.piece = 0)
    (data : List Byte) (s : State) :
    fillRead b data r s =
      answerRead b.port r.addr [.run { k with data := some data }] data (endRead b.port r.id s) := by
  have filled : r.pieces.modify b.piece (Piece.fill data) = [.run { k with data := some data }] := by rw [hp, h0]; rfl
  unfold fillRead
  dsimp only
  rw [filled]
  simp [readBytes, Piece.bytes]

theorem windowBurstDone_clean {b : WindowBurst} {res : ReadResult} {r : ReadInFlight} {s : State} (h : res.bad = [])
    (hr : (s.bank b.port).reads.find? (fun x => x.id = b.read) = some r) :
    windowBurstDone b res s = fillRead b res.data r s := by
  unfold windowBurstDone
  dsimp only
  rw [h, List.foldl_nil, hr]
  rfl

/-- Settles O31: the burst's data fills the read's one run, so the read is answered and ends. -/
theorem windowBurstAnswersRead : Obligations.WindowBurstAnswersRead := by
  unfold Obligations.WindowBurstAnswersRead
  intro s b r k ks hb hc hr hp h0 clean _
  obtain ⟨data, bad⟩ := readBurst_clean clean
  have run := exec_windowReadBurstDone ks hb hc
  generalize (strikeAll ks s).mem.readBurst b.addr b.len = res at data bad run
  have left := cleanBurst bad ks s
  generalize burstRead ks res s = u at left run
  have done : windowBurstDone b res u =
      answerRead b.port r.addr [.run { k with data := some res.data }] res.data (endRead b.port r.id u) := by
    rw [windowBurstDone_clean bad (by rw [left.bank]; exact hr), fillRead_one hp h0]
  rw [done] at run
  refine ⟨_, run, ?_⟩
  obtain ⟨port0, port1, endCounters, endFaults, endCells, endCatalog, endBlocks, -, -, endBank, -⟩ :=
    endRead_fields b.port r.id u
  have endPort := port_of port0 port1 b.port
  generalize endRead b.port r.id u = v at *
  obtain ⟨link, -, bytesRead, bank, mem, catalog, blocks, faults⟩ :=
    readAnswered_answerRead b.port r.addr [.run { k with data := some res.data }] res.data v
  generalize answerRead b.port r.addr _ res.data v = t at *
  obtain ⟨arbPort, arbBank⟩ := arbitrate_port t b.port
  obtain ⟨arbCounters, arbCatalog, arbBlocks, arbFaults, arbCells⟩ := arbitrate_rest t
  have length : res.data.length = b.len := by rw [data, List.length_map, List.length_range]
  refine ⟨?_, ?_, ?_, ?_, ?_, ?_, ?_⟩
  · rw [arbPort, link, endPort, left.port, data]; rfl
  · rw [arbBank, bank, endBank, left.bank]
  · rw [arbCounters, bytesRead, endCounters, left.counters, length]
  · rw [arbCells, mem, endCells, left.cells]
  · rw [arbCatalog, catalog, endCatalog, left.catalog]
  · rw [arbBlocks, blocks, endBlocks, left.blocks]
  · rw [arbFaults, faults, endFaults, left.faults]

end Sys2Proof.Proofs
end

section
/-! PROOF. Which commands answer a next state: all that are well formed, over bursts that lie in capture memory. -/

namespace Sys2Proof.Proofs

open Sys2Proof.Machine Sys2Proof.Laws

/-- A command that makes no transaction is refused (R58, R168; log entry 27). -/
theorem exec_illFormed {c : Instr} (h : c.wf = false) (s : State) : exec c s = .refused .illFormed := by
  cases c with
  | windowRead p a n => exact if_neg (ne_true_of_eq_false h)
  | apertureWrite p a bytes => exact if_neg (ne_true_of_eq_false h)
  | controlWindowWrite p off bytes => exact if_neg (ne_true_of_eq_false h)
  | _ => exact Bool.noConfusion h

/-! ## The completions of bursts (R140) -/

theorem writerBurstDone_completes {s : State} (ks : List Strike)
    (h : ∀ b, s.mem.busy = some (.writer b) ∨ s.mem.busy = some (.stray b) → b.addr + b.bytes.length ≤ 34359738368) :
    ∃ t, exec (.writerBurstDone ks) s = .next t := by
  show ∃ t, execWriterBurstDone ks s = .next t
  unfold execWriterBurstDone
  split
  · next b hb => exact ⟨_, if_pos (decide_eq_true (h b (.inl hb)))⟩
  · next b hb => exact ⟨_, if_pos (decide_eq_true (h b (.inr hb)))⟩
  · exact ⟨_, rfl⟩

theorem archiveBurstDone_completes {s : State} (ks : List Strike)
    (h : ∀ b d, s.mem.busy = some (.archive b d) → b.addr + b.len ≤ 34359738368) :
    ∃ t, exec (.archiveBurstDone ks) s = .next t := by
  show ∃ t, execArchiveBurstDone ks s = .next t
  unfold execArchiveBurstDone
  split
  · next b d hb => exact ⟨_, if_pos (decide_eq_true (h b d hb))⟩
  · exact ⟨_, rfl⟩

theorem windowReadBurstDone_completes {s : State} (ks : List Strike)
    (h : ∀ b, s.mem.busy = some (.window b) → b.addr + b.len ≤ 34359738368) :
    ∃ t, exec (.windowReadBurstDone ks) s = .next t := by
  show ∃ t, execWindowReadBurstDone ks s = .next t
  unfold execWindowReadBurstDone
  split
  · next b hb => exact ⟨_, if_pos (decide_eq_true (h b hb))⟩
  · exact ⟨_, rfl⟩

/-- Settles O2: the three transactions that can be ill formed and the three bursts that can lie outside capture memory are
checked; every other command's meaning is a next state. -/
theorem wellFormedCommandsComplete : Obligations.WellFormedCommandsComplete := by
  unfold Obligations.WellFormedCommandsComplete
  intro c s
  refine ⟨fun wf writer archive window => ?completes, fun h => exec_illFormed h s⟩
  case completes =>
    cases c with
    | writerBurstDone ks => exact writerBurstDone_completes ks writer
    | archiveBurstDone ks => exact archiveBurstDone_completes ks archive
    | windowReadBurstDone ks => exact windowReadBurstDone_completes ks window
    | windowRead p a n => exact ⟨_, if_pos wf⟩
    | apertureWrite p a bytes => exact ⟨_, if_pos wf⟩
    | controlWindowWrite p off bytes => exact ⟨_, if_pos wf⟩
    | _ => exact ⟨_, rfl⟩

end Sys2Proof.Proofs
end

section
/-! PROOF. PORT_RESET: the port's own side cleared, the end of its binding, and the DRAIN_DONE that this may lead to. -/

namespace Sys2Proof.Proofs

open Sys2Proof.Machine Sys2Proof.Laws

/-! ## The port's own side (R67, R176, R177) -/

/-- Port `p` is in the drain set (R163). -/
def drains (p : Port) (s : State) : Bool :=
  match p with
  | .p0 => s.session.drain0
  | .p1 => s.session.drain1

/-- A session request in progress loses its completion when it is of the reset port (R177). -/
def disownProgress (p : Port) : InProgress → InProgress
  | .abort r => .abort (r.disown p)
  | .resetPart r => .resetPart (r.disown p)

theorem disownRequests_inProgress (p : Port) (s : State) :
    (disownRequests p s).session.inProgress = s.session.inProgress.map (disownProgress p) := by
  unfold disownRequests
  dsimp only
  cases s.session.inProgress with
  | none => rfl
  | some k => cases k <;> rfl

/-- The state in which port `p`'s own side has been reset, before the engine is told. -/
def portCleared (p : Port) (s : State) : State :=
  leaveDrain p (resetHolds p (disownRequests p (modifyPort p PortUnit.afterReset s)))

theorem exec_portReset (p : Port) (s : State) :
    exec (.portReset p) s = .next (engineEvent (resetBinding p (portCleared p s))) := rfl

/-- What the reset of a port's own side sets, and what it leaves. -/
structure PortCleared (p : Port) (s x : State) : Prop where
  port : x.port p = (s.port p).afterReset
  otherPort : x.port p.other = s.port p.other
  holds : ∀ i, (x.bank p).hold i = none
  reads : (x.bank p).reads = []
  tagCounter : (x.bank p).tagCounter = (s.bank p).tagCounter
  otherBank : x.bank p.other = s.bank p.other
  passed : x.passed = s.passed.map (Passed.disown p)
  inProgress : x.session.inProgress = s.session.inProgress.map (disownProgress p)
  left : drains p x = false
  engine : x.engine = s.engine
  cells : x.mem.cells = s.mem.cells
  blocks : x.blocks = s.blocks
  intake : x.intake = s.intake

theorem portCleared_spec (p : Port) (s : State) : PortCleared p s (portCleared p s) := by
  have inProgress := disownRequests_inProgress p (modifyPort p PortUnit.afterReset s)
  obtain ⟨b, w, c, m, e, holds, tag, reads, cells⟩ :=
    resetHolds_fields p (disownRequests p (modifyPort p PortUnit.afterReset s))
  unfold portCleared
  rw [e]
  cases p
  · exact ⟨rfl, rfl, holds, reads, tag, rfl, rfl, inProgress, rfl, rfl, cells, rfl, rfl⟩
  · exact ⟨rfl, rfl, holds, reads, tag, rfl, rfl, inProgress, rfl, rfl, cells, rfl, rfl⟩

/-! ## What the end of a binding leaves alone -/

/-- Also without what the end of a binding changes: the engine, the ARCHIVE counters, and the session unit's request in
progress. -/
def apartFromBinding (s : State) : State :=
  { s.apartFromArchive with
    engine := Engine.reset
    session := { s.apartFromArchive.session with inProgress := none }
    counters := { s.apartFromArchive.counters with archive := ArchiveCounters.zero } }

/-- What the end of a binding leaves alone. -/
abbrev Bnd := Rel apartFromBinding

theorem bnd_eng {s t : State} (h : Eng s t) : Bnd s t := h.mono (fun e => by simp only [apartFromBinding, e])

theorem bnd_setEngine (f : Engine → Engine) (s : State) : Bnd s (setEngine f s) := Rel.of rfl rfl rfl rfl rfl

theorem bnd_logFailedWrite (s : State) : Bnd s (logFailedWrite s) := by
  unfold logFailedWrite
  split
  · exact Rel.refl s
  · exact ((bnd_setEngine _ s).trans (bnd_eng (Told.eng (told_logFault _ _ _ _)))).trans (Rel.of rfl rfl rfl rfl rfl)

theorem bnd_rewind (counted : Bool) (s : State) : Bnd s (rewind counted s) :=
  (bnd_logFailedWrite s).trans (bnd_eng (eng_rewindEntries counted _))

theorem bnd_engineUnbound (s : State) : Bnd s (engineUnbound s) := by
  unfold engineUnbound
  split
  · next h => exact bnd_eng (eng_enterStopped h)
  · exact Rel.refl s

theorem bnd_unbind (s : State) : Bnd s (unbind s) := (bnd_setEngine _ s).trans (bnd_engineUnbound _)

theorem bnd_resetDone (s : State) : Bnd s (resetDone s) := Rel.of rfl rfl rfl rfl rfl

theorem bnd_fields {s t : State} (h : Bnd s t) :
    (∀ q, t.bank q = s.bank q) ∧ t.passed = s.passed ∧ t.mem.cells = s.mem.cells ∧ t.blocks = s.blocks ∧
      t.intake = s.intake :=
  ⟨bank_of (congrArg State.bank0 h.view :) (congrArg State.bank1 h.view :), (congrArg State.passed h.view :),
    (congrArg (fun x : State => x.mem.cells) h.view :), (congrArg State.blocks h.view :),
    (congrArg State.intake h.view :)⟩

theorem eng_bound {s t : State} (h : Eng s t) : t.engine.bound = s.engine.bound :=
  (congrArg (fun x : State => x.engine.bound) h.view :)

theorem eng_inProgress {s t : State} (h : Eng s t) : t.session.inProgress = s.session.inProgress :=
  (congrArg (fun x : State => x.session.inProgress) h.view :)

/-! ## The end of the binding (R88, R90) -/

/-- The engine, bound to port `p`, waits to end a part reset (R90). -/
def PartResetWaits (p : Port) (s : State) : Prop :=
  s.engine.bound = some p ∧ ∃ u, s.engine.ending = some (.partReset u)

theorem resetBinding_elsewhere {p : Port} {s : State} (h : s.engine.bound ≠ some p) : resetBinding p s = s := if_neg h

theorem resetBinding_unbinds {p : Port} {s : State} (h : s.engine.bound = some p) (hw : ¬ PartResetWaits p s) :
    resetBinding p s = unbind (rewind true s) := by
  unfold resetBinding
  rw [if_pos h]
  split
  · next u he => exact absurd ⟨h, u, he⟩ hw
  · rfl

/-- The engine as at power-on when the wait of a part reset ends with no part reset in progress. -/
theorem resetBinding_idle {p : Port} {s : State} (h : PartResetWaits p s)
    (hi : ∀ r, s.session.inProgress ≠ some (.resetPart r)) : resetBinding p s = engineReset s := by
  obtain ⟨bound, u, ending⟩ := h
  unfold resetBinding
  rw [if_pos bound, ending]
  show finishReset (setEngine (fun g => { g with ending := none }) s) = _
  unfold finishReset
  dsimp only
  split
  · next r hr => exact absurd hr (hi r)
  · rfl

theorem answer_disowned {r : Passed} (h : r.live = false) (st : Status) (d : Nat) (pay : List Field) (s : State) :
    answer r st d pay s = s :=
  if_neg (by simp [h])

/-- A part reset of the reset port that waits ends with no completion, and the other port is told (log entry 46). -/
theorem resetBinding_ends {p : Port} {s : State} {r : Passed} (h : PartResetWaits p s)
    (hi : s.session.inProgress = some (.resetPart r)) (hp : r.port = p) (hl : r.live = false) :
    resetBinding p s = notify p.other .partReset [] (resetDone s) := by
  obtain ⟨bound, u, ending⟩ := h
  have finished := finishReset_eq (u := setEngine (fun g => { g with ending := none }) s) rfl hi
  unfold resetBinding
  rw [if_pos bound, ending]
  exact finished.trans (by rw [answer_disowned hl, hp]; rfl)

/-- What the end of the binding at a port reset leaves, in every case. -/
structure BindingEnded (p : Port) (x y : State) : Prop where
  bnd : Bnd x y
  drains : drains p y = drains p x
  port : (x.engine.bound = some p → x.engine.failed = none) → y.port p = x.port p
  unbound : x.engine.bound = some p → y.engine.bound = none
  elsewhere : x.engine.bound ≠ some p → y.engine.bound = x.engine.bound
  inProgress :
    ¬ (PartResetWaits p x ∧ ∃ r, x.session.inProgress = some (.resetPart r)) →
      y.session.inProgress = x.session.inProgress

theorem eq_or_eq_other (p q : Port) : q = p ∨ q = p.other := by cases p <;> cases q <;> simp [Port.other]

/-- With no binding to the other port none is left. -/
theorem BindingEnded.boundNone {p : Port} {x y : State} (h : BindingEnded p x y) (ho : x.engine.bound ≠ some p.other) :
    y.engine.bound = none := by
  by_cases hb : x.engine.bound = some p
  · exact h.unbound hb
  · rw [h.elsewhere hb, Option.eq_none_iff_forall_ne_some]
    intro q hq
    rcases eq_or_eq_other p q with rfl | rfl
    · exact hb hq
    · exact ho hq

theorem unbind_session (p : Port) (s : State) :
    drains p (unbind s) = drains p s ∧ (unbind s).session.inProgress = s.session.inProgress := by
  unfold unbind engineUnbound
  split <;> cases p <;> exact ⟨rfl, rfl⟩

theorem drains_congr {s t : State} (p : Port) (h : t.session = s.session) : drains p t = drains p s := by
  unfold drains
  rw [h]

theorem bindingEnded_unbind {p : Port} {x : State} (h : x.engine.bound = some p) :
    BindingEnded p x (unbind (rewind true x)) := by
  obtain ⟨-, session, -⟩ := rewind_rest true x
  obtain ⟨drained, inProgress⟩ := unbind_session p (rewind true x)
  obtain ⟨beyond, unbound⟩ := beyondEngine_unbind (rewind true x)
  refine ⟨(bnd_rewind true x).trans (bnd_unbind _), drained.trans (drains_congr p session), fun hf => ?_,
    fun _ => unbound, fun hn => absurd h hn, fun _ => by rw [inProgress, session]⟩
  have same := (beyondEngine_rewind true (hf h)).trans beyond
  exact port_of same.port0 same.port1 p

theorem bindingEnded_idle (p : Port) {x : State} (h : x.engine.bound = some p) : BindingEnded p x (engineReset x) :=
  ⟨bnd_setEngine (fun _ => Engine.reset) x, by cases p <;> rfl, fun _ => by cases p <;> rfl, fun _ => rfl,
    fun hn => absurd h hn, fun _ => rfl⟩

theorem bindingEnded_ends {p : Port} {x : State} {r : Passed} (h : PartResetWaits p x)
    (hi : x.session.inProgress = some (.resetPart r)) :
    BindingEnded p x (notify p.other .partReset [] (resetDone x)) := by
  obtain ⟨-, -, -, -, engine, -, -, -, -, session, -⟩ :=
    sameBlocks_iff.mp (sameBlocks_notify p.other .partReset [] (resetDone x))
  refine ⟨(bnd_resetDone x).trans (bnd_eng (Told.eng (told_notify _ _ _ _))), (drains_congr p session).trans ?_,
    fun _ => (notify_otherPort _ _ _ (port_other_ne p).symm).trans ?_, fun _ => by rw [engine]; rfl,
    fun hn => absurd h.1 hn, fun hn => absurd ⟨h, r, hi⟩ hn⟩
  · cases p <;> rfl
  · cases p <;> rfl

theorem bindingEnded_spec {p : Port} {x : State}
    (h : PartResetWaits p x → ∀ r, x.session.inProgress = some (.resetPart r) → r.port = p ∧ r.live = false) :
    BindingEnded p x (resetBinding p x) := by
  by_cases hb : x.engine.bound = some p
  · by_cases hw : PartResetWaits p x
    · by_cases hi : ∃ r, x.session.inProgress = some (.resetPart r)
      · obtain ⟨r, hr⟩ := hi
        obtain ⟨hp, hl⟩ := h hw r hr
        rw [resetBinding_ends hw hr hp hl]
        exact bindingEnded_ends hw hr
      · rw [resetBinding_idle hw (fun r hr => hi ⟨r, hr⟩)]
        exact bindingEnded_idle p hb
    · rw [resetBinding_unbinds hb hw]
      exact bindingEnded_unbind hb
  · rw [resetBinding_elsewhere hb]
    exact ⟨Rel.refl x, rfl, fun _ => rfl, fun k => absurd k hb, fun _ => rfl, fun _ => rfl⟩

/-! ## What the engine's event leaves of it (R162, R163) -/

/-- A DRAIN_DONE goes to the drain set only. -/
theorem sendDrainDone_port {p : Port} {s : State} (h : drains p s = false) : (sendDrainDone s).port p = s.port p := by
  unfold sendDrainDone
  split
  · rfl
  · next f _ =>
    have told : ∀ {q : Port} (t : State), drains q s = true → (notify q .drainDone (drainPayload f s) t).port p = t.port p :=
      fun t hq => notify_otherPort _ _ t (fun e => by subst e; rw [h] at hq; cases hq)
    have first : ∀ (b : Bool) (q : Port) (t : State), (b = true → drains q s = true) →
        (if b then notify q .drainDone (drainPayload f s) t else t).port p = t.port p := by
      intro b q t hq
      split
      · next hb => exact told t (hq hb)
      · rfl
    have done := (first s.session.drain1 .p1 _ id).trans (first s.session.drain0 .p0 s id)
    cases p <;> exact done

/-- With the engine unbound its event writes nothing to a port outside the drain set. -/
theorem engineEvent_port {p : Port} {s : State} (hb : s.engine.bound = none) (hd : drains p s = false) :
    (engineEvent s).port p = s.port p := by
  unfold engineEvent
  rw [runEngine_quiet (.inl hb), (arbitrate_port _ p).1, sendDrainDone_port hd]

theorem engineEvent_unbound {s : State} (hb : s.engine.bound = none) : (engineEvent s).engine = s.engine := by
  unfold engineEvent
  rw [runEngine_quiet (.inl hb), arbitrate_eq]
  exact (sendDrainDone_engine s).1

/-- Notices that have reached port `p` in state `t` stand in state `u`. -/
structure NoticesStay (p : Port) (t u : State) : Prop where
  queue : QueueKept (t.port p) (u.port p)
  missed : ∀ k, k ∈ (t.port p).missed → k ∈ (u.port p).missed
  flag : (t.port p).noticesMissed = true → (u.port p).noticesMissed = true
  slots : ∀ code pay, noticeSlot code pay u = noticeSlot code pay t

theorem NoticesStay.refl (p : Port) (s : State) : NoticesStay p s s := ⟨queueKept_refl _, fun _ => id, id, fun _ _ => rfl⟩

theorem NoticesStay.trans {p : Port} {s t u : State} (h : NoticesStay p s t) (k : NoticesStay p t u) :
    NoticesStay p s u :=
  ⟨queueKept_trans h.queue k.queue, fun n hn => k.missed n (h.missed n hn), k.flag ∘ h.flag,
    fun code pay => (k.slots code pay).trans (h.slots code pay)⟩

theorem NoticesStay.notified {p : Port} {s t u : State} {k : NoticeKind} {pay : List Field} (h : NoticesStay p t u)
    (n : Notified s t p k pay) : Notified s u p k pay := by
  unfold Notified at n ⊢
  rw [h.slots]
  exact n.imp (fun posted => posted_mono posted h.queue) (fun missed => ⟨h.missed k missed.1, h.flag missed.2⟩)

theorem interrupt_missed (p : Port) (s : State) :
    ((interrupt p s).port p).missed = (s.port p).missed ∧
      ((interrupt p s).port p).noticesMissed = (s.port p).noticesMissed := by
  unfold interrupt
  dsimp only
  split
  · rw [setPort_port]; exact ⟨rfl, rfl⟩
  · exact ⟨rfl, rfl⟩

/-- A notice to the port itself joins its queue, or the pending-notice set beside the kinds that stand in it. -/
theorem notify_missed (p : Port) (k : NoticeKind) (pay : List Field) (s : State) :
    (∀ j, j ∈ (s.port p).missed → j ∈ ((notify p k pay s).port p).missed) ∧
      ((s.port p).noticesMissed = true → ((notify p k pay s).port p).noticesMissed = true) := by
  unfold notify
  split
  · unfold enqueue
    dsimp only
    rw [(interrupt_missed p _).1, (interrupt_missed p _).2, setPort_port]
    exact ⟨fun _ => id, id⟩
  · unfold missNotice
    dsimp only
    rw [countPort_port, setPort_port]
    refine ⟨fun j hj => ?_, fun _ => rfl⟩
    dsimp only
    split
    · exact hj
    · exact List.mem_append_left _ hj

theorem noticesStay_notify (p q : Port) (k : NoticeKind) (pay : List Field) (s : State) :
    NoticesStay p s (notify q k pay s) := by
  have slots := fun code pay' => slot_same (sameBlocks_notify q k pay s) code pay'
  have queue := ((told_notify q k pay s).ports p).queue
  by_cases e : p = q
  · subst e
    exact ⟨queue, (notify_missed p k pay s).1, (notify_missed p k pay s).2, slots⟩
  · have same := notify_otherPort k pay s e
    exact ⟨queue, fun j hj => same ▸ hj, fun hf => same ▸ hf, slots⟩

theorem noticesStay_sendDrainDone (p : Port) (s : State) : NoticesStay p s (sendDrainDone s) := by
  unfold sendDrainDone
  split
  · exact NoticesStay.refl p s
  · next f _ =>
    have sent : ∀ (b : Bool) (q : Port) (t : State),
        NoticesStay p t (if b then notify q .drainDone (drainPayload f s) t else t) := by
      intro b q t
      split
      · exact noticesStay_notify p q _ _ t
      · exact NoticesStay.refl p t
    have both := (sent s.session.drain0 .p0 s).trans (sent s.session.drain1 .p1 _)
    cases p <;> exact ⟨both.queue, both.missed, both.flag, both.slots⟩

theorem noticesStay_engineEvent {p : Port} {s : State} (hb : s.engine.bound = none) :
    NoticesStay p s (engineEvent s) := by
  unfold engineEvent
  rw [runEngine_quiet (.inl hb)]
  refine (noticesStay_sendDrainDone p s).trans ?_
  rw [arbitrate_eq]
  cases p <;> exact ⟨queueKept_refl _, fun _ => id, id, fun _ _ => rfl⟩

/-- A part reset of the reset port that waits for the engine has ended. -/
structure WaitEnded (p : Port) (x t : State) : Prop where
  inProgress : t.session.inProgress = none
  engine : t.engine = Engine.reset
  told : Notified x t p.other .partReset []

theorem waitEnded_spec {p : Port} {x : State} {r : Passed} (h : PartResetWaits p x)
    (hi : x.session.inProgress = some (.resetPart r)) (hp : r.port = p) (hl : r.live = false) :
    WaitEnded p x (engineEvent (resetBinding p x)) := by
  rw [resetBinding_ends h hi hp hl]
  have told := notified_notify p.other .partReset [] (resetDone x)
  obtain ⟨-, -, -, -, engine, -, -, -, -, session, -⟩ :=
    sameBlocks_iff.mp (sameBlocks_notify p.other .partReset [] (resetDone x))
  generalize notify p.other .partReset [] (resetDone x) = y at *
  have bound : y.engine.bound = none := by rw [engine]; rfl
  refine ⟨by rw [eng_inProgress (eng_engineEvent y), session]; rfl, (engineEvent_unbound bound).trans engine,
    (noticesStay_engineEvent bound).notified (notified_congr told ?_ rfl rfl)⟩
  cases p <;> rfl

/-! ## The whole port reset -/

/-- What the emptied port unit keeps and clears, entries and notices aside (R176). -/
structure UnitReset (u v : PortUnit) : Prop where
  reqHead : v.reqHead = 0
  reqTail : v.reqTail = 0
  cplHead : v.cplHead = 0
  inHand : v.inHand = none
  held : v.held = none
  irqEnable : v.irqEnable = false
  writeErrorEnable : v.writeErrorEnable = false
  conflictErrorEnable : v.conflictErrorEnable = false
  unmappedRead : v.unmappedRead = false
  writeViolation : v.writeViolation = false
  decodeConflict : v.decodeConflict = false
  readTimeout : v.readTimeout = false
  irqAddr : v.irqAddr = u.irqAddr
  irqData : v.irqData = u.irqData
  reqSlots : v.reqSlots = u.reqSlots

theorem unitReset_of {u v : PortUnit} (h : PortKept u.afterReset v) : UnitReset u v := by
  have rest := h.rest
  exact ⟨congrArg PortUnit.reqHead rest, congrArg PortUnit.reqTail rest, congrArg PortUnit.cplHead rest,
    congrArg PortUnit.inHand rest, congrArg PortUnit.held rest, congrArg PortUnit.irqEnable rest,
    congrArg PortUnit.writeErrorEnable rest, congrArg PortUnit.conflictErrorEnable rest,
    congrArg PortUnit.unmappedRead rest, congrArg PortUnit.writeViolation rest, congrArg PortUnit.decodeConflict rest,
    congrArg PortUnit.readTimeout rest, (congrArg PortUnit.irqAddr rest :), (congrArg PortUnit.irqData rest :),
    (congrArg PortUnit.reqSlots rest :)⟩

theorem disown_live {p : Port} {r : Passed} (h : r.port = p) : (r.disown p).live = false ∧ (r.disown p).port = p := by
  unfold Passed.disown
  rw [if_pos h]
  exact ⟨rfl, h⟩

theorem disown_port (p : Port) (r : Passed) : (r.disown p).port = r.port := by
  unfold Passed.disown
  split <;> rfl

/-- Settles O40: the port's own side is cleared, its binding ends, and what the engine's event then sends leaves the rest. -/
theorem portIsReset : Obligations.PortIsReset := by
  unfold Obligations.PortIsReset
  intro p s waits ofPort
  have cleared := portCleared_spec p s
  have run := exec_portReset p s
  generalize portCleared p s = x at cleared run
  obtain ⟨port, otherPort, holds, reads, tagCounter, otherBank, passed, inProgress, left, engine, cells, blocks, intake⟩ :=
    cleared
  have waits_iff : PartResetWaits p x ↔ waits := by unfold PartResetWaits; rw [engine]
  have ofDisowned : PartResetWaits p x → ∀ r, x.session.inProgress = some (.resetPart r) → r.port = p ∧ r.live = false := by
    intro hw r hr
    rw [inProgress, Option.map_eq_some_iff] at hr
    obtain ⟨k, hk, e⟩ := hr
    cases k with
    | abort q => cases e
    | resetPart q =>
      cases e
      exact (disown_live (ofPort (waits_iff.mp hw) q hk)).symm
  have ended := bindingEnded_spec ofDisowned
  have waitEnded := fun r (hw : PartResetWaits p x) hr =>
    waitEnded_spec (r := r) hw hr (ofDisowned hw r hr).1 (ofDisowned hw r hr).2
  refine ⟨_, run, ?_⟩
  generalize resetBinding p x = y at ended waitEnded
  have eng := eng_engineEvent y
  have keptBound := eng_bound eng
  have keptProgress := eng_inProgress eng
  have bnd := ended.bnd.trans (bnd_eng eng)
  have emptied : s.engine.bound ≠ some p.other → (s.engine.bound = some p → s.engine.failed = none) →
      (engineEvent y).port p = (s.port p).afterReset := by
    intro hother hfailed
    rw [engineEvent_port (ended.boundNone (engine ▸ hother)) (ended.drains.trans left), ended.port (engine ▸ hfailed), port]
  generalize engineEvent y = t at *
  obtain ⟨bank, passed', cells', blocks', intake'⟩ := bnd_fields bnd
  have keptPort : PortKept (s.port p).afterReset (t.port p) := port ▸ bnd.ports p
  obtain ⟨reqHead, reqTail, cplHead, inHand, held, irqEnable, writeErrorEnable, conflictErrorEnable, unmappedRead,
    writeViolation, decodeConflict, readTimeout, irqAddr, irqData, reqSlots⟩ := unitReset_of keptPort
  refine ⟨keptPort, emptied, reqHead, reqTail, cplHead, inHand, held, irqEnable, writeErrorEnable, conflictErrorEnable,
    unmappedRead, writeViolation, decodeConflict, readTimeout, irqAddr, irqData, reqSlots, otherPort ▸ bnd.ports p.other,
    fun i => by rw [bank]; exact holds i, by rw [bank]; exact reads, by rw [bank]; exact tagCounter,
    (bank _).trans otherBank, fun r hr hp => ?disowned, fun r hr => ?aborting, fun r hr => ⟨fun hw => ?goesOn, fun hw => ?ends⟩,
    fun hb => keptBound.trans (ended.unbound (engine ▸ hb)),
    fun hb => (keptBound.trans (ended.elsewhere (engine ▸ hb))).trans (by rw [engine]),
    cells'.trans cells, blocks'.trans blocks, intake'.trans intake⟩
  case disowned =>
    rw [passed', passed, List.mem_map] at hr
    obtain ⟨q, -, rfl⟩ := hr
    exact (disown_live ((disown_port p q).symm.trans hp)).1
  case aborting =>
    have now : x.session.inProgress = some (.abort (r.disown p)) := by rw [inProgress, hr]; rfl
    rw [keptProgress, ended.inProgress (fun h => by obtain ⟨-, q, hq⟩ := h; rw [now] at hq; cases hq), now]
  case goesOn =>
    rw [keptProgress, ended.inProgress (fun h => hw (waits_iff.mp h.1)), inProgress, hr]
    rfl
  case ends =>
    obtain ⟨none, reset, told⟩ := waitEnded (r.disown p) (waits_iff.mpr hw) (by rw [inProgress, hr]; rfl)
    exact ⟨none, reset, notified_congr told otherPort.symm rfl rfl⟩

end Sys2Proof.Proofs
end

section
/-! PROOF. The archive engine's own events: the start of an entry, the answers to its writes, the flush timer. -/

namespace Sys2Proof.Proofs

open Sys2Proof.Machine Sys2Proof.Laws

/-! ## The start of an entry (R75, R76) -/

/-- The entries that the engine can start: an archive-required SEALED record with no claim standing, a LOST record, a
SEALED GAP entry. -/
theorem startable_iff {s : State} {e : Entry} :
    s.startable e = true ↔
      e.state = .sealed ∧ e.archReq = true ∧ s.engine.claim = none ∧ e.isData = true ∨
        e.state = .lost ∧ e.isData = true ∨ e.state = .sealed ∧ e.isData = false := by
  unfold State.startable Entry.isData Entry.data?
  cases e.body with
  | data d => cases e.state <;> simp
  | gap g => cases e.state <;> simp

/-- The engine is where ENTRY_START can act: bound, IDLE or SENDING, nothing ending, closed or started. -/
structure MayStart (g : Engine) : Prop where
  bound : g.bound ≠ none
  state : g.state = .idle ∨ g.state = .sending
  ending : g.ending = none
  closed : g.closed = none
  started : g.progress.started = false

theorem exec_entryStart {s : State} {e : Entry} (h : MayStart s.engine)
    (he : (skipPositions s).sendEntry = some e) (hs : (skipPositions s).startable e = true) :
    exec .entryStart s = .next (engineEvent (startEntry e (skipPositions s))) := by
  have may : ((s.engine.state = .idle || s.engine.state = .sending) && s.engine.bound.isSome &&
      s.engine.ending.isNone && s.engine.closed.isNone && !s.engine.progress.started) = true := by
    simp [h.state, Option.isSome_iff_ne_none, h.bound, h.ending, h.closed, h.started]
  show execEntryStart s = _
  unfold execEntryStart
  rw [if_pos may]
  dsimp only
  rw [he]
  dsimp only
  rw [if_pos hs]

/-- A record in SEALED state takes the claim and begins with its HEADER. -/
theorem startEntry_record {e : Entry} (hs : e.state = .sealed) (hd : e.isData = true) (s : State) :
    (startEntry e s).engine.claim = some e.number ∧ (startEntry e s).engine.progress.stage = .header := by
  simp [startEntry, hs, hd]

/-- Another entry takes no claim and goes out as one frame. -/
theorem startEntry_whole {e : Entry} (h : e.state = .lost ∨ e.isData = false) (s : State) :
    (startEntry e s).engine.claim = s.engine.claim ∧ (startEntry e s).engine.progress.stage = .whole := by
  rcases h with h | h <;> simp [startEntry, h]

/-- Settles O23: the positions skip and the entry there starts; then the engine goes on. -/
theorem engineStartsEntry : Obligations.EngineStartsEntry := by
  unfold Obligations.EngineStartsEntry
  intro s e p bound state ending closed started entry kind
  have may : MayStart s.engine := ⟨by simp [bound], state, ending, closed, started⟩
  have run := exec_entryStart (s := s) may entry (startable_iff.mpr kind)
  exact ⟨_, _, run, followedByEngine _, rfl, rfl, rfl, rfl, rfl, rfl, rfl, rfl, rfl,
    fun hs hd => startEntry_record hs hd _, fun h => startEntry_whole h _, rfl⟩

/-! ## The answers to writes (R81, R86, R89) -/

/-- The n-th write answered with nothing ending: acted upon, or in FAULTED the wait may end. -/
theorem exec_archiveWriteAck {s : State} {n : Nat} {w : OutWrite} (h : s.engine.issued[n]? = some w)
    (he : s.engine.ending = none) :
    exec (.archiveWriteAck n) s =
      .next (if s.engine.state = .faulted then endFaultWait (answerWrite n s) else ackWrite w (answerWrite n s)) := by
  show execArchiveWriteAck n s = _
  unfold execArchiveWriteAck
  rw [h]
  dsimp only
  rw [he]
  rfl

theorem exec_linkWriteError {s : State} {n : Nat} {w : OutWrite} (h : s.engine.issued[n]? = some w)
    (he : s.engine.ending = none) :
    exec (.linkWriteError n) s =
      .next
        (endFaultWait (if s.engine.state = .faulted then answerWrite n s else faultEngine w (answerWrite n s))) := by
  show execLinkWriteError n s = _
  unfold execLinkWriteError
  rw [h]
  dsimp only
  rw [he, apply_ite endFaultWait]
  rfl

/-- With no failed write, or with writes still unanswered, the wait of FAULTED goes on. -/
theorem endFaultWait_waits {s : State} (h : s.engine.failed = none ∨ s.engine.issued ≠ []) : endFaultWait s = s := by
  unfold endFaultWait
  split
  · next w hf hi => exact (h.elim (fun k => by simp [hf] at k) (fun k => k hi)).elim
  · rfl

/-- At the last answer a failed write is reported. -/
theorem endFaultWait_ends {s : State} {x : FailedWrite} (hf : s.engine.failed = some x) (hi : s.engine.issued = []) :
    endFaultWait s = engineEvent (reportFailure x s) := by
  unfold endFaultWait
  rw [hf, hi]

/-- The note of a written entry changes written flags only (R81). -/
theorem noteWritten_eq (n : Nat) (g : Engine) :
    noteWritten n g =
      { g with progress := (noteWritten n g).progress, awaiting := (noteWritten n g).awaiting } := by
  unfold noteWritten
  split <;> rfl

theorem noteWritten_sent {n : Nat} {g : Engine} (hs : g.progress.started = true) (hn : g.sendPos = n) :
    (noteWritten n g).progress.written = true := by
  unfold noteWritten
  rw [if_pos (by simp [hs, hn])]

/-- The state in which an acknowledgement has been counted and noted, before the engine goes on. -/
def writeAcknowledged (w : OutWrite) (s : State) : State :=
  setEngine (noteWritten w.entry)
    (countArchive (fun c => { c with bytesWritten := sat c.bytesWritten w.len }) s)

theorem ackWrite_eq (w : OutWrite) (s : State) : ackWrite w s = engineEvent (writeAcknowledged w s) := rfl

/-- The engine, a DRAIN_DONE and the arbiter leave the bytes written and the link errors counted. -/
theorem eng_archiveCounts {s t : State} (h : Eng s t) :
    t.counters.archive.bytesWritten = s.counters.archive.bytesWritten ∧
      t.counters.archive.linkErrors = s.counters.archive.linkErrors :=
  ⟨(congrArg (fun x : State => x.counters.archive.bytesWritten) h.view :),
    (congrArg (fun x : State => x.counters.archive.linkErrors) h.view :)⟩

/-- Settles O25: outside FAULTED the write is counted and noted and the engine goes on; in FAULTED it is only removed. -/
theorem archiveWriteIsAcknowledged : Obligations.ArchiveWriteIsAcknowledged := by
  unfold Obligations.ArchiveWriteIsAcknowledged
  intro s n w issued ending
  have run := exec_archiveWriteAck issued ending
  refine ⟨fun state => ?acted, fun state waits => ?removed⟩
  case acted =>
    have engine := noteWritten_eq w.entry (answerWrite n s).engine
    refine ⟨writeAcknowledged w (answerWrite n s), _, by rw [run, if_neg state, ackWrite_eq], followedByEngine _,
      (congrArg Engine.issued engine :), (eng_archiveCounts (eng_engineEvent _)).1, fun hs hp => noteWritten_sent hs hp,
      (congrArg Engine.buffers engine :), (congrArg Engine.claim engine :), rfl⟩
  case removed =>
    rw [run, if_pos state, endFaultWait_waits waits]
    rfl

/-! ## The flush timer (R82, R84) -/

theorem exec_flushTimerExpiry_closes {s : State} (hs : s.engine.state = .idle) (hf : s.engine.flush.isSome = true)
    (he : s.engine.ending = none) : exec .flushTimerExpiry s = .next (engineEvent (closeBuffer true s)) := by
  show Host.Outcome.next (expireFlush s) = _
  unfold expireFlush
  rw [if_pos (by simp [hs, hf, he])]

theorem exec_flushTimerExpiry_inert {s : State} (h : s.engine.state ≠ .idle ∨ s.engine.flush = none) :
    exec .flushTimerExpiry s = .next s := by
  show Host.Outcome.next (expireFlush s) = _
  unfold expireFlush
  rw [if_neg (by rcases h with h | h <;> simp [h])]

/-- The engine, bound to port `p`, can report its closed buffer at once: its writes have been answered, and a slot is
free (R82). -/
structure ReportDue (p : Port) (s : State) : Prop where
  bound : s.engine.bound = some p
  ending : s.engine.ending = none
  state : s.engine.state = .sending
  closed : s.engine.closed.isSome = true
  answered : s.engine.issued = []
  free : 0 < (s.port p).free

theorem engineStep_reports {p : Port} {s : State} (h : ReportDue p s) :
    engineStep s = (afterFilled (writeFilled s), true) := by
  unfold engineStep
  rw [if_neg (by simp [h.bound, h.ending, h.state]), if_pos h.closed, if_neg (by simp [h.answered]),
    if_pos (boundFree_of h.bound h.free)]

theorem engineLoop_goesOn {s t : State} (fuel : Nat) (h : engineStep s = (t, true)) :
    engineLoop (fuel + 1) s = engineLoop fuel t := by
  rw [engineLoop, h]

/-- The BUFFER_FILLED of the closed current buffer (R82, R191). -/
def filledSlot (b : Buffer) (s : State) : List Byte :=
  noticeSlot 0x83 (filledPayload b.addr s.engine.used (bit (s.engine.closed = some true) 0) s.engine.touched) s

theorem writeFilled_eq {s : State} {p : Port} {b : Buffer} {bs : List Buffer} (hb : s.engine.bound = some p)
    (hl : s.engine.buffers = b :: bs) : writeFilled s = enqueue p (filledSlot b s) s := by
  unfold writeFilled onBound
  rw [hl, hb]
  rfl

/-- The header of a notice is that of the generation and the epoch, which the capture side, the engine and the arbiter
leave. -/
theorem noticeSlot_cap {s t : State} (h : Cap s t) (code : Nat) (pay : List Field) :
    noticeSlot code pay t = noticeSlot code pay s := by
  obtain ⟨generation, epoch⟩ := cap_generation h
  unfold noticeSlot entrySlot
  rw [generation, epoch]

/-- Such a report joins the port's queue in the engine's event. -/
theorem posted_report {p : Port} {s : State} {b : Buffer} {bs : List Buffer} (h : ReportDue p s)
    (hl : s.engine.buffers = b :: bs) : Posted (s.port p) ((engineEvent s).port p) (filledSlot b s) := by
  have written := posted_enqueue h.free (filledSlot b s)
  rw [← writeFilled_eq h.bound hl] at written
  have loop : runEngine s = engineLoop 15 (afterFilled (writeFilled s)) :=
    engineLoop_goesOn 15 (engineStep_reports h)
  have after : Eng (writeFilled s) (engineEvent s) := by
    unfold engineEvent
    rw [loop]
    exact (((eng_afterFilled _).trans (eng_engineLoop 15 _)).trans (eng_sendDrainDone _)).trans (eng_arbitrate _)
  exact posted_mono written (after.ports p).queue

/-- Settles O27: in IDLE the timer closes the buffer, which the engine reports when nothing holds the report back. -/
theorem flushTimerClosesBuffer : Obligations.FlushTimerClosesBuffer := by
  unfold Obligations.FlushTimerClosesBuffer
  intro s
  refine ⟨fun state flush ending => ?closes, exec_flushTimerExpiry_inert⟩
  refine ⟨closeBuffer true s, _, exec_flushTimerExpiry_closes state flush ending, followedByEngine _, rfl,
    fun p b bs bound issued free buffers => ?_⟩
  rw [noticeSlot_cap (Eng.cap ((eng_closeBuffer true s).trans (eng_engineEvent _)))]
  exact posted_report (s := closeBuffer true s) ⟨bound, ending, rfl, rfl, issued, free⟩ buffers

end Sys2Proof.Proofs
end

section
/-! PROOF. LINK_WRITE_ERROR: the engine FAULTED, and the report of the failed write once every write is answered. -/

namespace Sys2Proof.Proofs

open Sys2Proof.Machine Sys2Proof.Laws

/-! ## The failure logged and the entries rewound (R86, R89) -/

theorem logFailedWrite_some {s : State} {x : FailedWrite} (h : s.engine.failed = some x) :
    logFailedWrite s =
      countArchive (fun c => { c with linkErrors := sat c.linkErrors 1 })
        (logFault .archive .linkWriteError x.addr.toNat (setEngine (fun g => { g with failed := none }) s)) := by
  unfold logFailedWrite
  rw [h]

/-- The failed write is logged and counted once, and the rewind adds no other fault and no other link error. -/
theorem rewind_logs {s : State} {x : FailedWrite} (h : s.engine.failed = some x) :
    FaultReported s (rewind true s) .archive .linkWriteError x.addr.toNat ∧
      (rewind true s).counters.archive.linkErrors = sat s.counters.archive.linkErrors 1 := by
  have faults := (rewind_engine true s).2
  have counted : (rewind true s).counters.archive.linkErrors = (logFailedWrite s).counters.archive.linkErrors :=
    (eng_archiveCounts (eng_rewindEntries true (logFailedWrite s))).2
  rw [logFailedWrite_some h] at faults counted
  generalize hu : setEngine (fun g => { g with failed := none }) s = u at faults counted
  have reported := faultReported_logFault .archive .linkWriteError x.addr.toNat u
  obtain ⟨-, -, -, archive, -⟩ := logFault_groups .archive .linkWriteError x.addr.toNat u
  refine ⟨faultReported_congr reported (by rw [← hu]; rfl) faults, ?_⟩
  rw [counted, countArchive_counters, archive, ← hu]
  rfl

/-- What a rewind of engine `g` sets and keeps, whatever becomes of its buffers (R86). -/
structure Rewound (g k : Engine) : Prop where
  state : k.state = g.state
  bound : k.bound = g.bound
  cursor : k.cursor = g.cursor
  issued : k.issued = g.issued
  sendPos : k.sendPos = g.cursor
  claim : k.claim = none
  progress : k.progress = Progress.clear
  awaiting : k.awaiting = []
  flush : k.flush = none
  closed : k.closed = none
  failed : k.failed = none

theorem rewound_rewind (counted : Bool) (s : State) : Rewound s.engine (rewind counted s).engine := by
  rw [(rewind_engine counted s).1]
  exact ⟨rfl, rfl, rfl, rfl, rfl, rfl, rfl, rfl, rfl, rfl, rfl⟩

/-- A change of the buffers, or of the notice that waits for a slot, leaves the rewind. -/
theorem Rewound.noticed {g k : Engine} (h : Rewound g k) (buffers : List Buffer) (used : Nat)
    (touched : Option (Nat × Nat)) (notice : Option ErrorNotice) (armed : Bool) :
    Rewound g
      { k with buffers := buffers, used := used, touched := touched, errorNotice := notice, lowArmed := armed } :=
  ⟨h.state, h.bound, h.cursor, h.issued, h.sendPos, h.claim, h.progress, h.awaiting, h.flush, h.closed, h.failed⟩

/-! ## The notice of the failed write (R89, R191) -/

/-- The BUFFER_FILLED of a failed write, with LINK_ERROR and ABORTED. -/
def errorSlot (n : ErrorNotice) (s : State) : List Byte :=
  noticeSlot 0x83 (filledPayload n.addr n.used 6 (some (n.first, n.last))) s

theorem writeErrorFilled_eq {s : State} {p : Port} (n : ErrorNotice) (h : s.engine.bound = some p) :
    writeErrorFilled n s = enqueue p (errorSlot n s) s := by
  unfold writeErrorFilled onBound
  rw [h]
  rfl

theorem enqueue_faults (p : Port) (slot : List Byte) (s : State) : (enqueue p slot s).faults = s.faults := by
  unfold enqueue
  rw [interrupt_faults, setPort_faults]

/-- The notice written and what follows it: it stands in the port's queue, and the buffer has left the list. -/
structure ErrorFilled (p : Port) (n : ErrorNotice) (s t : State) : Prop where
  eng : Eng s t
  engine :
    t.engine =
      { s.engine with
        buffers := s.engine.buffers.drop 1, used := 0, touched := none, errorNotice := none
        lowArmed := t.engine.lowArmed }
  faults : t.faults = s.faults
  posted : Posted (s.port p) (t.port p) (errorSlot n s)

theorem errorFilled_spec {s : State} {p : Port} (n : ErrorNotice) (hb : s.engine.bound = some p)
    (hf : 0 < (s.port p).free) : ErrorFilled p n s (afterErrorFilled (writeErrorFilled n s)) := by
  rw [writeErrorFilled_eq n hb]
  have posted := posted_enqueue hf (errorSlot n s)
  have told := Told.eng (told_enqueue hf (errorSlot n s))
  have faults := enqueue_faults p (errorSlot n s) s
  obtain ⟨-, -, -, -, engine, -⟩ := sameBlocks_iff.mp (sameBlocks_enqueue p (errorSlot n s) s)
  generalize enqueue p (errorSlot n s) s = x at *
  have after : Eng x (afterErrorFilled x) := Rel.trans (eng_setEngine rfl rfl) (eng_bufferLeft _ _)
  obtain ⟨left, faults'⟩ := bufferLeft_engine x.engine.buffers.length
    (setEngine (fun g => { g with buffers := g.buffers.drop 1, used := 0, touched := none, errorNotice := none }) x)
  refine ⟨told.trans after, ?_, faults'.trans faults, posted_mono posted (after.ports p).queue⟩
  rw [← engine]
  exact left

/-! ## The report (R89) -/

/-- What the report of failed write `x` leaves, for an engine bound to port `p`. -/
structure FailureReported (p : Port) (x : FailedWrite) (s t : State) : Prop where
  rewound : Rewound s.engine t.engine
  linkErrors : t.counters.archive.linkErrors = sat s.counters.archive.linkErrors 1
  fault : FaultReported s t .archive .linkWriteError x.addr.toNat
  notice :
    Posted (s.port p) (t.port p) (errorSlot (s.engine.faultNotice x.used) t) ∨
      t.engine.errorNotice = some (s.engine.faultNotice x.used)
  beyond :
    t.mem.cells = s.mem.cells ∧ t.intake = s.intake ∧ t.blocks = s.blocks ∧ t.bank0 = s.bank0 ∧ t.bank1 = s.bank1

/-- The engine's acts leave capture memory, the intake unit, the blocks and the holds. -/
theorem eng_beyond {s t : State} (h : Eng s t) :
    t.mem.cells = s.mem.cells ∧ t.intake = s.intake ∧ t.blocks = s.blocks ∧ t.bank0 = s.bank0 ∧ t.bank1 = s.bank1 :=
  ⟨(congrArg (fun x : State => x.mem.cells) h.view :), (congrArg State.intake h.view :),
    (congrArg State.blocks h.view :), (congrArg State.bank0 h.view :), (congrArg State.bank1 h.view :)⟩

/-- A report stands through acts of the engine that leave the engine's own fields but the buffers, and the faults. -/
theorem FailureReported.goesOn {p : Port} {x : FailedWrite} {s t u : State} (h : FailureReported p x s t)
    (k : Eng t u) (engine : u.engine = t.engine) (faults : u.faults = t.faults) : FailureReported p x s u := by
  obtain ⟨rewound, linkErrors, fault, notice, cells, intake, blocks, bank0, bank1⟩ := h
  obtain ⟨cells', intake', blocks', bank0', bank1'⟩ := eng_beyond k
  refine ⟨engine ▸ rewound, (eng_archiveCounts k).2.trans linkErrors, faultReported_congr fault rfl faults, ?_,
    cells'.trans cells, intake'.trans intake, blocks'.trans blocks, bank0'.trans bank0, bank1'.trans bank1⟩
  rw [engine]
  refine notice.imp_left fun posted => ?_
  unfold errorSlot at posted ⊢
  rw [noticeSlot_cap k.cap]
  exact posted_mono posted (k.ports p).queue

/-- The rewind, then the notice in the port's queue, or waiting for a slot. -/
theorem failureReported_spec {p : Port} {x : FailedWrite} {s : State} (hb : s.engine.bound = some p)
    (hf : s.engine.failed = some x) : FailureReported p x s (reportFailure x s) := by
  obtain ⟨fault, linkErrors⟩ := rewind_logs hf
  have rewound := rewound_rewind true s
  have queue := (rewind_ports true s p).queue
  obtain ⟨blocks, intake⟩ := rewind_blocks true s
  obtain ⟨-, -, bank0, bank1⟩ := rewind_rest true s
  have cells : (rewind true s).mem.cells = s.mem.cells := by rw [rewind_mem]; rfl
  unfold reportFailure
  dsimp only
  generalize rewind true s = y at *
  have bound : y.engine.bound = some p := rewound.bound.trans hb
  split
  · next free =>
    have slot : 0 < (y.port p).free := by simpa [State.boundFree, bound] using free
    obtain ⟨eng, engine, faults, posted⟩ := errorFilled_spec (s.engine.faultNotice x.used) bound slot
    generalize afterErrorFilled (writeErrorFilled (s.engine.faultNotice x.used) y) = t at *
    obtain ⟨cells', intake', blocks', bank0', bank1'⟩ := eng_beyond eng
    refine ⟨?_, (eng_archiveCounts eng).2.trans linkErrors, faultReported_congr fault rfl faults, .inl ?_,
      cells'.trans cells, intake'.trans intake, blocks'.trans blocks, bank0'.trans bank0, bank1'.trans bank1⟩
    · rw [engine]
      exact rewound.noticed _ _ _ _ _
    · unfold errorSlot
      rw [noticeSlot_cap eng.cap]
      exact posted_after queue posted
  · exact ⟨rewound.noticed _ _ _ _ _, linkErrors, faultReported_congr fault rfl rfl, .inr rfl, cells, intake, blocks,
      bank0, bank1⟩

/-- In FAULTED the engine's event leaves the engine and the faults. -/
theorem engineEvent_faulted {s : State} (h : s.engine.state = .faulted) :
    (engineEvent s).engine = s.engine ∧ (engineEvent s).faults = s.faults := by
  unfold engineEvent
  rw [runEngine_quiet (.inr (.inr (.inr h))), arbitrate_eq]
  exact sendDrainDone_engine s

/-- State `y` is `s` when the last answer has come that failed write `x` waits for. -/
structure LastAnswer (p : Port) (x : FailedWrite) (s y : State) : Prop where
  state : y.engine.state = .faulted
  bound : y.engine.bound = some p
  issued : y.engine.issued = []
  failed : y.engine.failed = some x
  cursor : y.engine.cursor = s.engine.cursor
  notice : y.engine.faultNotice x.used = s.engine.faultNotice x.used
  port : y.port p = s.port p
  counters : y.counters = s.counters
  faults : y.faults = s.faults
  beyond :
    y.mem.cells = s.mem.cells ∧ y.intake = s.intake ∧ y.blocks = s.blocks ∧ y.bank0 = s.bank0 ∧ y.bank1 = s.bank1

/-- The answer to the last write of an engine already FAULTED. -/
theorem lastAnswer_faulted {p : Port} {x : FailedWrite} {s : State} {n : Nat} (hb : s.engine.bound = some p)
    (hs : s.engine.state = .faulted) (hi : s.engine.issued.eraseIdx n = []) (hf : s.engine.failed = some x) :
    LastAnswer p x s (answerWrite n s) :=
  ⟨hs, hb, hi, hf, rfl, rfl, setEngine_port _ s p, rfl, rfl, rfl, rfl, rfl, rfl, rfl⟩

/-- The error of the only write. -/
theorem lastAnswer_failed {p : Port} {s : State} {n : Nat} (w : OutWrite) (hb : s.engine.bound = some p)
    (hi : s.engine.issued.eraseIdx n = []) :
    LastAnswer p { addr := w.addr, used := w.off } s (faultEngine w (answerWrite n s)) :=
  ⟨rfl, hb, hi, rfl, rfl, rfl, by cases p <;> rfl, rfl, rfl, rfl, rfl, rfl, rfl, rfl⟩

/-- Then the failure is reported, and the engine's event leaves the report. -/
theorem LastAnswer.reported {p : Port} {x : FailedWrite} {s y : State} (h : LastAnswer p x s y) :
    FailureReported p x y (endFaultWait y) := by
  have reported := failureReported_spec h.bound h.failed
  obtain ⟨engine, faults⟩ := engineEvent_faulted (reported.rewound.state.trans h.state)
  rw [endFaultWait_ends h.failed h.issued]
  exact reported.goesOn (eng_engineEvent _) engine faults

/-- Settles O26: with writes unanswered the engine is FAULTED and waits; at the last answer the failure is reported. -/
theorem linkWriteErrorFaultsEngine : Obligations.LinkWriteErrorFaultsEngine := by
  unfold Obligations.LinkWriteErrorFaultsEngine
  intro s n w p issued ending bound base touched reported
  have ack := exec_archiveWriteAck issued ending
  have error := exec_linkWriteError issued ending
  have report : ∀ {x : FailedWrite} {y : State}, LastAnswer p x s y → reported x (endFaultWait y) := by
    intro x y last
    obtain ⟨rewound, linkErrors, fault, notice, cells, intake, blocks, bank0, bank1⟩ := last.reported
    obtain ⟨cells', intake', blocks', bank0', bank1'⟩ := last.beyond
    rw [last.notice, last.port] at notice
    exact ⟨rewound.state.trans last.state, rewound.bound.trans last.bound, rewound.failed, rewound.claim,
      rewound.progress, rewound.awaiting, rewound.closed, rewound.cursor.trans last.cursor,
      rewound.sendPos.trans last.cursor, rewound.flush, rewound.issued.trans last.issued,
      linkErrors.trans (by rw [last.counters]), faultReported_congr fault last.faults.symm rfl, notice,
      cells.trans cells', intake.trans intake', blocks.trans blocks', bank0.trans bank0', bank1.trans bank1'⟩
  refine ⟨fun state more => ?waits, fun state last => ?only, fun state last x failed => ?last⟩
  case waits =>
    rw [error, if_neg state, endFaultWait_waits (.inr more)]
    rfl
  case only =>
    exact ⟨_, error.trans (by rw [if_neg state]), report (lastAnswer_failed w bound last)⟩
  case last =>
    have answered := report (lastAnswer_faulted bound state last failed)
    exact ⟨⟨_, ack.trans (by rw [if_pos state]), answered⟩, ⟨_, error.trans (by rw [if_pos state]), answered⟩⟩

end Sys2Proof.Proofs
end

section
/-! PROOF. The binding of the archive engine: BIND_ARCHIVE, UNBIND_ARCHIVE and SUPPLY_BUFFER. -/

namespace Sys2Proof.Proofs

open Sys2Proof.Machine Sys2Proof.Laws

/-! ## BIND_ARCHIVE (R71, R74) -/

theorem exec_bindArchive {s : State} {p : Port} {r : Passed} (h : Waits s p 0x10 r) :
    exec (.bindArchive p) s = .next (bindArchive r (s.without p 0x10)) := by
  show execBindArchive p s = _
  unfold execBindArchive
  rw [takePassed_of h.oldest]

/-- The engine that a binding to port `p` leaves: the cursor and the send position skip, and it waits for a buffer when
the entry there can start. -/
def boundEngine (p : Port) (s : State) : Engine :=
  { s.engine with
    bound := some p, buffers := [], lowArmed := true
    cursor := s.catalog.skip s.engine.cursor, sendPos := s.catalog.skip s.engine.cursor
    state :=
      if (s.catalog.find (s.catalog.skip s.engine.cursor)).any s.startable then .waitBuffer else .idle }

theorem bindArchive_unbound {r : Passed} {s : State} (h : s.engine.bound = none) :
    bindArchive r s =
      answer r .ok 0 [⟨0, 4, s.catalog.skip s.engine.cursor⟩] (setEngine (fun _ => boundEngine r.port s) s) := by
  unfold bindArchive
  rw [h]
  rfl

theorem bindArchive_again {r : Passed} {s : State} (h : s.engine.bound = some r.port) :
    bindArchive r s = answer r .ok 0 [⟨0, 4, s.engine.cursor⟩] s := by
  unfold bindArchive
  rw [h]
  exact if_pos rfl

theorem bindArchive_elsewhere {r : Passed} {s : State} (h : s.engine.bound = some r.port.other) :
    bindArchive r s = answer r .boundElsewhere 0 [] s := by
  unfold bindArchive
  rw [h]
  exact if_neg (port_other_ne r.port)

/-- Settles O47: each binding of the engine has its answer, and only a binding from none changes the engine. -/
theorem archiveIsBound : Obligations.ArchiveIsBound := by
  unfold Obligations.ArchiveIsBound
  intro p s r h
  have run := exec_bindArchive h
  have port := (Waits.port h).1
  refine ⟨fun hb => ?unbound, fun hb => ?again, fun hb => ?elsewhere⟩
  case unbound =>
    refine ⟨_, run.trans (congrArg Host.Outcome.next (bindArchive_unbound hb)),
      replied_answer h.live _ _ _ (without_port s p · 0x10), ?engine, ?blocks, answer_counters _ _ _ _ _,
      answer_faults _ _ _ _ _⟩
    case engine =>
      rw [answer_engine, port]
      rfl
    case blocks =>
      rw [answer_engine]
      exact sameBlocks_answer _ _ _ _ _
  case again =>
    exact ⟨_, run.trans (congrArg Host.Outcome.next (bindArchive_again (port ▸ hb))), replied_without h _ _ _,
      queryLeaves_answer s p 0x10 r _ _ _⟩
  case elsewhere =>
    exact ⟨_, run.trans (congrArg Host.Outcome.next (bindArchive_elsewhere (port ▸ hb))), replied_without h _ _ _,
      queryLeaves_answer s p 0x10 r _ _ _⟩

/-! ## UNBIND_ARCHIVE (R86, R87, R162) -/

theorem exec_unbindArchive {s : State} {p : Port} {r : Passed} (h : Waits s p 0x11 r) :
    exec (.unbindArchive p) s = .next (arbitrate (unbindArchive r (s.without p 0x11))) := by
  show execUnbindArchive p s = _
  unfold execUnbindArchive
  rw [takePassed_of h.oldest]

theorem unbindArchive_elsewhere {r : Passed} {s : State} (h : s.engine.bound ≠ some r.port) :
    unbindArchive r s = answer r .notBound 0 [] s := if_neg h

/-- With no part reset waiting and every write answered the binding ends. -/
theorem unbindArchive_finishes {r : Passed} {s : State} (h : s.engine.bound = some r.port)
    (he : ∀ u, s.engine.ending ≠ some (.partReset u)) (hi : s.engine.issued = []) :
    unbindArchive r s = finishUnbind r s := by
  unfold unbindArchive
  rw [if_pos h]
  split
  · next u hu => exact absurd hu (he u)
  · rw [hi]; rfl

/-- Else the request waits: for the answers to the writes, or, met by a part reset that waits, for the end of that (log
entry 46). -/
theorem unbindArchive_waits {r : Passed} {s : State} (h : s.engine.bound = some r.port)
    (hw : (∀ u, s.engine.ending ≠ some (.partReset u)) ∧ s.engine.issued ≠ [] ∨
      ∃ u, s.engine.ending = some (.partReset u)) :
    ∃ f : Engine → Engine, unbindArchive r s = setEngine f s ∧ (f s.engine).bound = s.engine.bound ∧
      ((∀ u, s.engine.ending ≠ some (.partReset u)) → (f s.engine).ending = some (.unbind r)) ∧
      ((∃ u, s.engine.ending = some (.partReset u)) → (f s.engine).ending = some (.partReset (some r))) := by
  unfold unbindArchive
  rw [if_pos h]
  split
  · next u hu => exact ⟨_, rfl, rfl, fun hn => absurd hu (hn u), fun _ => rfl⟩
  · next hn =>
    have free : ∀ u, s.engine.ending ≠ some (.partReset u) := fun u hu => hn u hu
    have unanswered : ¬ s.engine.issued.isEmpty = true := by
      rcases hw with ⟨-, hi⟩ | ⟨u, hu⟩
      · simpa using hi
      · exact absurd hu (free u)
    rw [if_neg unanswered]
    exact ⟨_, rfl, rfl, fun _ => rfl, fun ⟨u, hu⟩ => absurd hu (free u)⟩

/-- What the end of a binding sets, and what it leaves (R86, R87, R162). -/
structure Unbound (s t : State) : Prop where
  bound : t.engine.bound = none
  state : t.engine.state = .unbound
  buffers : t.engine.buffers = []
  claim : t.engine.claim = none
  awaiting : t.engine.awaiting = []
  cursor : t.engine.cursor = s.engine.cursor
  sendPos : t.engine.sendPos = s.engine.cursor
  drained : s.session.state = .draining → t.session.state = .stopped
  session : s.session.state ≠ .draining → t.session.state = s.session.state
  cells : t.mem.cells = s.mem.cells
  blocks : t.blocks = s.blocks
  intake : t.intake = s.intake

/-- The end of a binding abandons the buffers, keeps cursor and send position, and ends a DRAINING session. -/
theorem unbind_engine (s : State) :
    (unbind s).engine =
        { s.engine with
          bound := none, state := .unbound, buffers := [], used := 0, touched := none, issued := [], failed := none
          errorNotice := none, ending := none, closed := none, flush := none } ∧
      (unbind s).session.state = if s.session.state = .draining then .stopped else s.session.state := by
  unfold unbind engineUnbound
  rw [setEngine_session]
  split <;> exact ⟨rfl, rfl⟩

/-- A DRAIN_DONE leaves the session's state, the memory service, the blocks and the intake unit. -/
theorem sendDrainDone_rest (s : State) :
    (sendDrainDone s).session.state = s.session.state ∧ (sendDrainDone s).mem = s.mem ∧
      (sendDrainDone s).blocks = s.blocks ∧ (sendDrainDone s).intake = s.intake := by
  cases h : s.session.drainDue with
  | none => unfold sendDrainDone; rw [h]; exact ⟨rfl, rfl, rfl, rfl⟩
  | some f =>
    obtain ⟨-, blocks, -, -, -, -, -, intake, mem, session, -⟩ := sameBlocks_iff.mp (sendDrainDone_fields h)
    exact ⟨by rw [session], mem, blocks, intake⟩

/-- The state in which the binding has ended, before the request is answered. -/
def unbindDone (s : State) : State := sendDrainDone (unbind (rewind true s))

theorem finishUnbind_eq (r : Passed) (s : State) :
    finishUnbind r s = answer r .ok 0 [⟨0, 1, s.engine.buffers.length⟩] (unbindDone s) := rfl

theorem unbound_unbindDone (s : State) : Unbound s (unbindDone s) := by
  obtain ⟨cursor, sendPos, claim, awaiting, session, -⟩ := rewind_fields true s
  obtain ⟨blocks, intake⟩ := rewind_blocks true s
  have mem := rewind_mem true s
  obtain ⟨engine, state⟩ := unbind_engine (rewind true s)
  have beyond := (beyondEngine_unbind (rewind true s)).1
  unfold unbindDone
  generalize rewind true s = x at *
  generalize unbind x = y at *
  have told := (sendDrainDone_engine y).1.trans engine
  obtain ⟨state', mem', blocks', intake'⟩ := sendDrainDone_rest y
  have ended := state'.trans (session ▸ state)
  generalize sendDrainDone y = t at *
  refine ⟨by rw [told], by rw [told], by rw [told], by rw [told]; exact claim, by rw [told]; exact awaiting,
    by rw [told]; exact cursor, by rw [told]; exact sendPos, fun h => by rw [ended, if_pos h],
    fun h => by rw [ended, if_neg h], ?_, blocks'.trans (beyond.blocks.trans blocks),
    intake'.trans (beyond.intake.trans intake)⟩
  rw [mem', beyond.cells, mem]
  rfl

theorem sound_unbindDone (s : State) : Sound s (unbindDone s) :=
  ((sound_rewind true s).trans (sound_unbind _)).trans (sound_sendDrainDone _)

/-- What an answer and the arbiter leave of an ended binding. -/
theorem Unbound.settled {s u : State} (h : Unbound s u) (r : Passed) (st : Status) (d : Nat) (pay : List Field) :
    Unbound s (arbitrate (answer r st d pay u)) := by
  have cells := (granted_arbitrate (answer r st d pay u)).cells
  rw [arbitrate_eq]
  constructor <;> simp only [answer_engine, answer_session, answer_blocks, answer_intake]
  exacts [h.bound, h.state, h.buffers, h.claim, h.awaiting, h.cursor, h.sendPos, h.drained, h.session,
    cells.trans ((congrArg MemService.cells (answer_mem r st d pay u)).trans h.cells), h.blocks, h.intake]

/-- The arbiter after an update of the engine leaves port units, session and capture memory. -/
theorem arbitrate_setEngine (f : Engine → Engine) (s : State) :
    (arbitrate (setEngine f s)).engine = f s.engine ∧ (∀ q, (arbitrate (setEngine f s)).port q = s.port q) ∧
      (arbitrate (setEngine f s)).session = s.session ∧ (arbitrate (setEngine f s)).mem.cells = s.mem.cells := by
  have cells := (granted_arbitrate (setEngine f s)).cells
  refine ⟨by rw [arbitrate_eq]; rfl, fun q => ?_, by rw [arbitrate_eq]; rfl, cells⟩
  rw [(arbitrate_port _ q).1, setEngine_port]

/-- Settles O48: NOT_BOUND; the end of the binding; or a wait that leaves ports and session alone. -/
theorem archiveIsUnbound : Obligations.ArchiveIsUnbound := by
  unfold Obligations.ArchiveIsUnbound
  intro p s r h
  have run := exec_unbindArchive h
  have port := (Waits.port h).1
  refine ⟨fun hb => ?elsewhere, fun hb he hi => ?ends, fun hb hw => ?waits⟩
  case elsewhere =>
    rw [unbindArchive_elsewhere (s := s.without p 0x11) (port ▸ hb)] at run
    have cells := (granted_arbitrate (answer r .notBound 0 [] (s.without p 0x11))).cells
    rw [answer_mem] at cells
    refine ⟨_, run, replied_arbitrate (replied_without h _ _ _), ?_⟩
    rw [arbitrate_eq]
    exact ⟨answer_engine _ _ _ _ _, answer_session _ _ _ _ _, cells⟩
  case ends =>
    rw [unbindArchive_finishes (s := s.without p 0x11) (port ▸ hb) he hi, finishUnbind_eq] at run
    have queue : ∀ q, QueueKept (s.port q) ((unbindDone (s.without p 0x11)).port q) := fun q =>
      without_port s p q 0x11 ▸ (sound_unbindDone (s.without p 0x11)).queue q
    have answered := answered_after queue (replied_answered (replied_answer h.live .ok 0
      [⟨0, 1, s.engine.buffers.length⟩] (fun _ => rfl)))
    obtain ⟨bound, state, buffers, claim, awaiting, cursor, sendPos, drained, session, cells, blocks, intake⟩ :=
      (unbound_unbindDone (s.without p 0x11)).settled r .ok 0 [⟨0, 1, s.engine.buffers.length⟩]
    exact ⟨_, run, answered_cap answered (Eng.cap (eng_arbitrate _)), bound, state, buffers, claim, awaiting, cursor,
      sendPos, drained, session, cells, blocks, intake⟩
  case waits =>
    obtain ⟨f, waits, bound, unbinding, resetting⟩ :=
      unbindArchive_waits (r := r) (s := s.without p 0x11) (port ▸ hb) hw
    rw [waits] at run
    obtain ⟨engine, ports, session, cells⟩ := arbitrate_setEngine f (s.without p 0x11)
    rw [← engine] at bound unbinding resetting
    exact ⟨_, run, unbinding, resetting, bound.trans hb, fun q => (ports q).trans (without_port s p q 0x11), session,
      cells⟩

/-! ## SUPPLY_BUFFER (R72, R73, R85) -/

theorem exec_supplyBuffer {s : State} {p : Port} {r : Passed} {addr : Addr64} {size : Nat} (h : Waits s p 0x12 r)
    (hr : r.request = .supplyBuffer addr size) :
    exec (.supplyBuffer p) s = .next (supplyBuffer r addr size (s.without p 0x12)) := by
  show execSupplyBuffer p s = _
  unfold execSupplyBuffer
  rw [takePassed_of h.oldest]
  dsimp only
  rw [hr]

/-- A buffer that the list can take: its size and its address (R72). -/
abbrev BufferRanged (addr : Addr64) (size : Nat) : Prop :=
  4096 ≤ size ∧ size ≤ 4194304 ∧ size % 4096 = 0 ∧ addr.toNat % 4096 = 0

theorem supplyStatus_unbound {p : Port} {addr : Addr64} {size : Nat} {g : Engine} (h : g.bound ≠ some p) :
    supplyStatus p addr size g = .notBound := if_pos h

theorem supplyStatus_faulted {p : Port} {addr : Addr64} {size : Nat} {g : Engine} (h : g.bound = some p)
    (hs : g.state = .faulted) : supplyStatus p addr size g = .faulted := by
  unfold supplyStatus
  rw [if_neg (not_not.mpr h), if_pos hs]

/-- Bound and out of FAULTED the checks are those of the buffer and of the list. -/
theorem supplyStatus_bound {p : Port} {addr : Addr64} {size : Nat} {g : Engine} (h : g.bound = some p)
    (hs : g.state ≠ .faulted) :
    supplyStatus p addr size g =
      if ¬ BufferRanged addr size then .range else if 64 ≤ g.buffers.length then .listFull else .ok := by
  have ranged : (size < Config.bufferMin ∨ Config.bufferMax < size ∨ size % Config.bufferMin ≠ 0 ∨
      addr.toNat % Config.bufferMin ≠ 0) ↔ ¬ BufferRanged addr size := by
    unfold BufferRanged Config.bufferMin Config.bufferMax
    omega
  unfold supplyStatus
  rw [if_neg (not_not.mpr h), if_neg hs]
  simp only [ranged]
  rfl

theorem supplyBuffer_refused {r : Passed} {addr : Addr64} {size : Nat} {s : State} {st : Status}
    (h : supplyStatus r.port addr size s.engine = st) (hst : st ≠ .ok) :
    supplyBuffer r addr size s = answer r st 0 [] s := by
  unfold supplyBuffer
  split
  · next ok => exact absurd (h.symm.trans ok) hst
  · rw [h]

/-- The buffer joins the tail of the list; BUFFERS_LOW is armed again at the threshold (R73), and a wait for a buffer ends
(R85). -/
def bufferJoined (addr : Addr64) (size : Nat) (s : State) : State :=
  setEngine
    (fun g =>
      { g with
        buffers := g.buffers ++ [{ addr := addr, size := size }]
        lowArmed := g.lowArmed || decide (s.session.buffersLow ≤ s.engine.buffers.length + 1)
        state := if g.state = .waitBuffer then .sending else g.state }) s

theorem supplyBuffer_accepted {r : Passed} {addr : Addr64} {size : Nat} {s : State}
    (h : supplyStatus r.port addr size s.engine = .ok) :
    supplyBuffer r addr size s =
      engineEvent (answer r .ok 0 [⟨0, 1, s.engine.buffers.length + 1⟩] (bufferJoined addr size s)) := by
  unfold supplyBuffer
  rw [h]
  rfl

theorem answer_apartFromArchive (r : Passed) (st : Status) (d : Nat) (pay : List Field) (s : State) :
    (answer r st d pay s).apartFromArchive = s.apartFromArchive := by
  rw [answer_eq]
  cases r.port <;> rfl

/-- Settles O49: the checks refuse in their order; past them the buffer joins the list, and the engine goes on. -/
theorem bufferIsSupplied : Obligations.BufferIsSupplied := by
  unfold Obligations.BufferIsSupplied
  intro p s r addr size h hr ranged refused
  have run := exec_supplyBuffer h hr
  have port := (Waits.port h).1
  have refuse : ∀ {st : Status}, supplyStatus p addr size s.engine = st → st ≠ .ok → refused st := fun hq hst =>
    ⟨_, run.trans (congrArg Host.Outcome.next (supplyBuffer_refused (port ▸ hq) hst)), (refused_without h _).1,
      (refused_without h _).2, answer_counters _ _ _ _ _⟩
  have checks : s.engine.bound = some p → s.engine.state ≠ .faulted →
      supplyStatus p addr size s.engine =
        if ¬ ranged then .range else if 64 ≤ s.engine.buffers.length then .listFull else .ok :=
    fun hb hs => supplyStatus_bound hb hs
  refine ⟨fun hb => refuse (supplyStatus_unbound hb) (by simp), fun hb hs => refuse (supplyStatus_faulted hb hs) (by simp),
    fun hb hs hn => refuse ((checks hb hs).trans (if_pos hn)) (by simp),
    fun hb hs hg hl => refuse (by rw [checks hb hs, if_neg (not_not.mpr hg), if_pos hl]) (by simp),
    fun hb hs hg hl => ?accepted⟩
  have ok : supplyStatus r.port addr size (s.without p 0x12).engine = .ok := by
    rw [port]
    exact (checks hb hs).trans (by rw [if_neg (not_not.mpr hg), if_neg (Nat.not_le.mpr hl)])
  have answered := replied_answered (replied_answer (u := bufferJoined addr size (s.without p 0x12)) h.live .ok 0
    [⟨0, 1, s.engine.buffers.length + 1⟩] (without_port s p · 0x12))
  have follows := eng_engineEvent
    (answer r .ok 0 [⟨0, 1, s.engine.buffers.length + 1⟩] (bufferJoined addr size (s.without p 0x12)))
  refine ⟨_, _, run.trans (congrArg Host.Outcome.next (supplyBuffer_accepted ok)), followedByEngine _,
    answered_cap answered (Eng.cap follows), ?buffers, fun hw => ?wakes, fun hw => ?stays, ?apart⟩
  case buffers => rw [answer_engine]; rfl
  case wakes => rw [answer_engine]; exact if_pos hw
  case stays => rw [answer_engine]; exact if_neg hw
  case apart => exact follows.view.trans (answer_apartFromArchive _ _ _ _ _)

end Sys2Proof.Proofs
end

section
/-! PROOF. The end of an ABORT, which a completed write burst can lead to: the record sealed, the triggers ignored, the
session STOPPED. -/

namespace Sys2Proof.Proofs

open Sys2Proof.Machine Sys2Proof.Laws

/-! ## What settling keeps of the session -/

theorem cap_passedOver {s t : State} (h : Cap s t) :
    t.session.totals.passedOver = s.session.totals.passedOver :=
  (congrArg (fun x : State => x.session.totals.passedOver) h.view :)

theorem cap_written {s t : State} (h : Cap s t) : t.session.totals.written = s.session.totals.written :=
  (congrArg (fun x : State => x.session.totals.written) h.view :)

theorem cap_inProgress {s t : State} (h : Cap s t) : t.session.inProgress = s.session.inProgress :=
  (congrArg (fun x : State => x.session.inProgress) h.view :)

/-! ## A record sealed and a chain released keep the session -/

theorem low_session {s t : State} (h : Low s t) : t.session = s.session :=
  (congrArg (fun x : State => x.session) h.view :)

theorem sealEntry_session (f b : Nat) (first : Option Nat) (truncated : Bool) (s : State) :
    (sealEntry f b first truncated s).session = s.session := by
  unfold sealEntry
  split
  · exact low_session (told_logFault _ _ _ s).low
  · rw [countCatalog_session]
    exact low_session (((low_growEntry _ _ _ _ s).trans (low_mapData _ _ _)).trans (low_setEntryState _ _ _))

theorem sealTruncating_session (s : State) : (sealTruncating s).session = s.session := by
  unfold sealTruncating
  split
  · rfl
  · rw [setWriter_session, low_session (low_storeBlock _ _), sealEntry_session]

theorem discardChain_session (s : State) : (discardChain s).session = s.session := by
  unfold discardChain
  split
  · rw [setWriter_session, low_session (low_releaseBlocks _ s)]
  · rfl

/-! ## Triggers and marks that leave the aligner -/

theorem countTrigger_eq (f : TriggerCounters → TriggerCounters) (s : State) :
    countTrigger f s = { s with counters := (countTrigger f s).counters } := by
  unfold countTrigger
  split <;> rfl

/-- The pending trigger leaves the aligner and is counted; nothing else changes (R115). -/
theorem clearPending_eq (s : State) :
    clearPending s =
      { s with aligner := { s.aligner with pending := none }, counters := (clearPending s).counters } := by
  unfold clearPending
  split
  · next h => rw [← h]
  · unfold countOutcome
    rw [countTrigger_eq]
    rfl

/-- The hand-over leaves writer and aligner and is counted; nothing else changes. -/
theorem clearHandOver_eq (o : TrigOutcome) (s : State) :
    clearHandOver o s =
      { s with
        writer := (clearHandOver o s).writer
        aligner := { s.aligner with handOver := none }
        counters := (clearHandOver o s).counters } := by
  unfold clearHandOver
  split
  · next h => rw [← h]
  · unfold countOutcome
    rw [countTrigger_eq]
    rfl

/-- The queued marks leave the aligner and are counted; nothing else changes. -/
theorem clearMarks_eq (o : TrigOutcome) (s : State) :
    clearMarks o s = { s with aligner := { s.aligner with marks := [] }, counters := (clearMarks o s).counters } := by
  unfold clearMarks countOutcome
  rw [countTrigger_eq]
  rfl

/-- The triggers that the aligner has taken are counted as ignored; only the writer's handed trigger, the aligner and the
counters change (R108, R124). -/
def triggersIgnored (s : State) : State := clearMarks .ignored (clearHandOver .ignored (clearPending s))

theorem cap_triggersIgnored (s : State) : Cap s (triggersIgnored s) :=
  ((cap_clearPending s).trans (cap_clearHandOver _ _)).trans (cap_clearMarks _ _)

theorem triggersIgnored_fields (s : State) :
    (triggersIgnored s).session = s.session ∧ (triggersIgnored s).mem = s.mem ∧ (triggersIgnored s).intake = s.intake ∧
      (triggersIgnored s).aligner.pending = none := by
  unfold triggersIgnored
  rw [clearMarks_eq, clearHandOver_eq, clearPending_eq]
  exact ⟨rfl, rfl, rfl, rfl⟩

/-! ## The session STOPPED by an ABORT (R163, R164) -/

/-- The flags of the DRAIN_DONE that an ABORT leads to (R163, R164). -/
def abortedFlags : DrainFlags := { unbound := false, aborted := true }

/-- The session is STOPPED, the drain set has been told and emptied, and the engine, memory and blocks are as they were. -/
structure DrainAborted (s t : State) : Prop where
  session :
    t.session =
      { s.session with state := .stopped, stopTaken := false, drain0 := false, drain1 := false, drainDue := none }
  writer : t.writer = s.writer
  intake : t.intake = s.intake
  aligner : t.aligner = Aligner.rest s.aligner.params
  engine : t.engine = s.engine
  mem : t.mem = s.mem
  blocks : t.blocks = s.blocks
  queue : ∀ p, QueueKept (s.port p) (t.port p)
  told0 : s.session.drain0 = true → Notified s t .p0 .drainDone (drainPayload abortedFlags s)
  told1 : s.session.drain1 = true → Notified s t .p1 .drainDone (drainPayload abortedFlags s)

theorem drainAborted_spec (s : State) : DrainAborted s (sendDrainDone (enterStopped abortedFlags s)) := by
  have due : (enterStopped abortedFlags s).session.drainDue = some abortedFlags := rfl
  obtain ⟨-, blocks, -, -, engine, writer, aligner, intake, mem, session, -⟩ := sameBlocks_iff.mp (sendDrainDone_fields due)
  obtain ⟨told0, told1⟩ := notified_sendDrainDone due
  have queue := ((cap_enterStopped abortedFlags s).sound.trans (sound_sendDrainDone _)).queue
  exact ⟨session, writer, intake, aligner, engine, mem, blocks, queue, told0, told1⟩

/-! ## The end of an ABORT (R108, R164) -/

/-- The record sealed and the chain released, the intake IDLE, and what the aligner has taken ignored. -/
def abortReleased (s : State) : State := triggersIgnored (intakeIdle (discardChain (sealTruncating s)))

theorem cap_abortReleased (s : State) : Cap s (abortReleased s) :=
  (((cap_sealTruncating s).trans (cap_discardChain _)).trans (cap_intakeIdle _)).trans (cap_triggersIgnored _)

/-- The intake is IDLE with an empty buffer and no urgency (R134, R137). -/
def clearedIntake (k : Intake) : Intake := { k with state := .idle, items := [], urgent := false, inTransfer := .nothing }

theorem abortReleased_fields (s : State) :
    (abortReleased s).session = s.session ∧ (abortReleased s).intake = clearedIntake s.intake := by
  have kept := (kept_sealTruncating s).trans (kept_discardChain (sealTruncating s))
  have session : (discardChain (sealTruncating s)).session = s.session :=
    (discardChain_session _).trans (sealTruncating_session s)
  obtain ⟨sameSession, -, sameIntake, -⟩ := triggersIgnored_fields (intakeIdle (discardChain (sealTruncating s)))
  unfold abortReleased
  rw [sameSession, sameIntake, ← kept.intake]
  exact ⟨session, rfl⟩

/-- The writer IDLE and the session STOPPED, with DRAIN_DONE sent. -/
def abortEnded (s : State) : State :=
  sendDrainDone (enterStopped abortedFlags (setWriter (fun w => Writer.idle w.params) (abortReleased s)))

theorem cap_abortEnded (s : State) : Cap s (abortEnded s) :=
  (((cap_abortReleased s).trans (cap_setWriter rfl)).trans (cap_enterStopped _ _)).trans (eng_sendDrainDone _).cap

theorem finishAbort_answers {s : State} {r : Passed} (h : s.session.inProgress = some (.abort r)) :
    finishAbort s = answer r .ok 0 [] (setSession (fun k => { k with inProgress := none }) (abortEnded s)) := by
  have inProgress : (abortEnded s).session.inProgress = some (.abort r) := by
    unfold abortEnded
    rw [(drainAborted_spec _).session, ← h, ← (abortReleased_fields s).1]
    rfl
  unfold abortEnded abortReleased triggersIgnored abortedFlags at inProgress
  unfold finishAbort
  dsimp only
  rw [inProgress]
  rfl

/-- What an ended ABORT leaves before its answer. -/
structure AbortEnded (s t : State) : Prop where
  session :
    t.session =
      { s.session with
        state := .stopped, stopTaken := false, drain0 := false, drain1 := false, drainDue := none, inProgress := none }
  writer : ∃ params, t.writer = Writer.idle params
  intake : t.intake = clearedIntake s.intake
  aligner : ∃ params, t.aligner = Aligner.rest params
  queue : ∀ p, QueueKept (s.port p) (t.port p)

theorem abortEnded_spec (s : State) :
    AbortEnded s (setSession (fun k => { k with inProgress := none }) (abortEnded s)) := by
  obtain ⟨session, intake⟩ := abortReleased_fields s
  have queue := (cap_abortReleased s).sound.queue
  unfold abortEnded
  generalize abortReleased s = x at *
  have drained := drainAborted_spec (setWriter (fun w => Writer.idle w.params) x)
  refine ⟨by rw [setSession_session, drained.session, setWriter_session, session], ⟨_, drained.writer⟩,
    drained.intake.trans intake, ⟨_, drained.aligner⟩, fun p => ?_⟩
  rw [setSession_port]
  exact queueKept_trans (queue p) (setWriter_port _ x p ▸ drained.queue p)

end Sys2Proof.Proofs
end

section
/-! PROOF. The record writer's own events: a frame passed over, a write burst asked, and the completion of one. -/

namespace Sys2Proof.Proofs

open Sys2Proof.Machine Sys2Proof.Laws

/-! ## The item at the oldest end (R94) -/

theorem exec_writerTakeItem_ready {s : State} (h : s.writerReady = true) :
    exec .writerTakeItem s = .next (captureEvent (takeItem s)) := by
  show execWriterTakeItem s = _
  unfold execWriterTakeItem
  rw [if_pos h]

theorem exec_writerTakeItem_waits {s : State} (h : s.writerReady = false) : exec .writerTakeItem s = .next s := by
  show execWriterTakeItem s = _
  unfold execWriterTakeItem
  rw [if_neg (by simp [h])]

theorem writerReady_passing {s : State} (hs : s.writer.state = .passing) (hb : s.mem.writerBurst = none)
    (hn : s.writesNext = false) : s.writerReady = true := by
  simp [State.writerReady, hs, hb, hn]

/-- A RECORDING writer with no burst of its own and none that a STOP has cut off. -/
theorem writerReady_recording {s : State} (hs : s.writer.state = .recording) (hb : s.mem.writerBurst = none)
    (hd : ∀ d, s.mem.busy ≠ some (.stray d)) : s.writerReady = true := by
  simp [State.writerReady, hs, hb, not_strayGranted hd]

/-- A frame to write waits for a burst that a STOP has cut off (log entry 15). -/
theorem not_writerReady_stray {s : State} {d : WriterBurst} (hd : s.mem.busy = some (.stray d))
    (hn : s.writesNext = true) : s.writerReady = false := by
  simp [State.writerReady, strayGranted_of hd, hn]

/-- The frame at the oldest end, of index `i`, is the next the writer takes. -/
def frameNext (i : Nat) (s : State) : State := setWriter (fun w => { w with nextFrame := some i }) s

/-- A frame before which no change of the writer's state is due is taken in that state. -/
theorem takeItem_frame {s : State} {i : Nat} {bytes : List Byte} {rest : List Item}
    (hi : s.intake.items = .frame i bytes :: rest) (hc : applyChanges i (frameNext i s) = frameNext i s) :
    (s.writer.state = .passing → takeItem s = passOver i (frameNext i s)) ∧
      (s.writer.state = .recording → takeItem s = recordFrame i (frameNext i s)) := by
  unfold takeItem
  rw [hi]
  unfold frameNext at *
  dsimp only
  rw [hc, setWriter_writer]
  dsimp only
  exact ⟨fun hs => by rw [hs], fun hs => by rw [hs]⟩

theorem takeItem_recording {s : State} {i : Nat} {bytes : List Byte} {rest : List Item}
    (hs : s.writer.state = .recording) (hi : s.intake.items = .frame i bytes :: rest) :
    takeItem s = recordFrame i (frameNext i s) :=
  (takeItem_frame hi (applyChanges_recording hs)).2 hs

/-! ## A frame passed over (R94, R95) -/

/-- Settles O19: no change is due at the frame, so the writer passes over it in PASSING. -/
theorem passingWriterPassesFrame : Obligations.PassingWriterPassesFrame := by
  unfold Obligations.PassingWriterPassesFrame
  intro s i bytes rest hs hb hi hc
  have ready := writerReady_passing hs hb (writesNext_passing hs hi hc)
  have taken : takeItem s = passOver i (frameNext i s) := (takeItem_frame hi (applyChanges_early hc)).1 hs
  have run := exec_writerTakeItem_ready ready
  rw [taken] at run
  have left : (frameNext i s).intake.items.drop 1 = rest := by
    show s.intake.items.drop 1 = rest
    rw [hi]
    rfl
  unfold passOver at run
  rw [left] at run
  exact ⟨_, run, followedByCapture _, cap_passedOver (cap_captureEvent _), (Cap.sound (cap_captureEvent _)).cells⟩

/-! ## A write burst asked (R94, R27) -/

/-- The chain of an open record is not trimmed (R97). -/
theorem trimChain_open {s : State} {n : Nat} (h : s.writer.openRec = some n) : trimChain s = s := by
  have kept : s.trimmable = false := by simp [State.trimmable, h]
  unfold trimChain
  cases s.writer.chainBlocks with
  | zero => rfl
  | succ k => unfold trimLoop; rw [if_neg (by simp [kept])]

/-- A continuous record is open and has room in its last block. -/
structure HasRoom (n b : Nat) (w : Writer) : Prop where
  mode : w.params.mode = .continuous
  opened : w.openRec = some n
  noLast : w.recLast = none
  notHanded : w.handed = none
  unchanged : w.changes = []
  block : w.chainLast = some b
  room : w.lastFill < w.params.framesPerBlock

theorem recordFrame_room {s : State} {n b i : Nat} (h : HasRoom n b s.writer) : recordFrame i s = askBurst i s := by
  have enough : s.writer.needsBlock = false := by simp [Writer.needsBlock, h.block, h.room]
  unfold recordFrame
  rw [if_neg (by simp [h.opened])]
  unfold writeFrames
  rw [trimChain_open h.opened]
  dsimp only
  rw [if_neg (by simp [enough])]

/-- With no planned last frame and no change told, a burst is limited by its bytes and its block (R94). -/
theorem burstLimit_room {s : State} {n b i : Nat} (h : HasRoom n b s.writer) :
    s.burstLimit i =
      min (512 / s.writer.params.frameSize) (s.writer.params.framesPerBlock - s.writer.lastFill) := by
  unfold State.burstLimit
  dsimp only
  rw [h.noLast, h.notHanded, h.unchanged]
  rfl

/-- Settles O20: the writer asks the burst, unless one that a STOP has cut off is granted. -/
theorem recordingWriterAsksBurst : Obligations.RecordingWriterAsksBurst := by
  unfold Obligations.RecordingWriterAsksBurst
  intro s i n b bytes rest hs hm ho hl hh hc hb hr hw hi frames
  have room : HasRoom n b (frameNext i s).writer := ⟨hm, ho, hl, hh, hc, hb, hr⟩
  refine ⟨fun hd => ?asks, fun d hd => ?waits⟩
  case asks =>
    have run := exec_writerTakeItem_ready (writerReady_recording hs hw hd)
    rw [takeItem_recording hs hi, recordFrame_room room] at run
    unfold askBurst at run
    rw [room.block, burstLimit_room room] at run
    exact ⟨_, run, followedByCapture _, (Cap.sound (cap_captureEvent _)).cells⟩
  case waits => exact exec_writerTakeItem_waits (not_writerReady_stray hd (writesNext_recording hs hi))

/-! ## The bytes of a completed burst (R148) -/

/-- Every granule of a burst holds one of its bytes. -/
theorem exists_of_mem_granulesOf {addr len g : Nat} (hl : 0 < len) (h : g ∈ granulesOf addr len) :
    ∃ i, i < len ∧ g = (addr + i) / 32 := by
  unfold granulesOf granuleOf Config.granuleBytes at h
  obtain ⟨above, below⟩ := mem_natsFrom.mp h
  by_cases first : g = addr / 32
  · exact ⟨0, hl, first⟩
  · exact ⟨32 * g - addr, by omega, by omega⟩

/-- The bytes of burst `b` stand at its addresses in `t`, and every byte of a granule that it does not touch is as in
`s`. -/
def BurstWritten (b : WriterBurst) (s t : State) : Prop :=
  (∀ i, i < b.bytes.length → Memory.read (b.addr + i) t.mem.cells = b.bytes.getD i 0) ∧
    ∀ a, (∀ i, i < b.bytes.length → a / 32 ≠ (b.addr + i) / 32) →
      Memory.read a t.mem.cells = Memory.read a s.mem.cells

theorem BurstWritten.sound {b : WriterBurst} {s t u : State} (h : BurstWritten b s t) (k : Sound t u) :
    BurstWritten b s u := by
  unfold BurstWritten
  rw [k.cells]
  exact h

theorem burstWritten_storeBurst {b : WriterBurst} (ks : List Strike) {s : State} (hc : s.memoryCanonical)
    (hb : b.bytes ≠ []) : BurstWritten b s (storeBurst b ks s) := by
  have nonempty : 0 < b.bytes.length := List.length_pos_iff.mpr hb
  have read := fun x => read_writeBurst (releaseGrant (strikeAll ks s)).mem b.addr b.bytes x hc
  refine ⟨fun i hi => ?own, fun a ha => ?other⟩
  case own =>
    have inside : b.addr ≤ b.addr + i ∧ b.addr + i < b.addr + b.bytes.length := by omega
    exact (read _ (.inl inside)).trans ((if_pos inside).trans (by rw [Nat.add_sub_cancel_left]))
  case other =>
    have apart : a / 32 ∉ granulesOf b.addr b.bytes.length := fun h =>
      let ⟨i, hi, e⟩ := exists_of_mem_granulesOf nonempty h
      ha i hi e
    have outside : ¬ (b.addr ≤ a ∧ a < b.addr + b.bytes.length) := fun h =>
      ha (a - b.addr) (by omega) (by rw [Nat.add_sub_cancel' h.1])
    exact (read _ (.inr apart)).trans (if_neg outside)

theorem mergeAll_requests : ∀ (gs : List Nat) (m : MemService),
    (gs.foldl mergeGranule m).busy = m.busy ∧ (gs.foldl mergeGranule m).writerAsk = m.writerAsk
  | [], _ => ⟨rfl, rfl⟩
  | g :: gs, m => mergeAll_requests gs (mergeGranule m g)

/-- A stored burst is no longer granted, and what the writer asks stands. -/
theorem storeBurst_requests (b : WriterBurst) (ks : List Strike) (s : State) :
    (storeBurst b ks s).mem.busy = none ∧ (storeBurst b ks s).mem.writerAsk = s.mem.writerAsk :=
  mergeAll_requests _ _

/-- A stored burst changes the memory service only. -/
theorem storeBurst_rest (b : WriterBurst) (ks : List Strike) (s : State) :
    { storeBurst b ks s with mem := s.mem } = s := rfl

theorem exec_writerBurstDone_writer {s : State} {b : WriterBurst} (ks : List Strike)
    (hb : s.mem.busy = some (.writer b)) (hl : b.addr + b.bytes.length ≤ 34359738368) :
    exec (.writerBurstDone ks) s = .next (writerBurstDone b (storeBurst b ks s)) := by
  show execWriterBurstDone ks s = _
  unfold execWriterBurstDone
  rw [hb]
  exact if_pos (decide_eq_true hl)

theorem exec_writerBurstDone_stray {s : State} {b : WriterBurst} (ks : List Strike)
    (hb : s.mem.busy = some (.stray b)) (hl : b.addr + b.bytes.length ≤ 34359738368) :
    exec (.writerBurstDone ks) s = .next (strayBurstDone (storeBurst b ks s)) := by
  show execWriterBurstDone ks s = _
  unfold execWriterBurstDone
  rw [hb]
  exact if_pos (decide_eq_true hl)

/-! ## The total written (R159) -/

/-- The end of an ABORT's wait counts no frame as written. -/
theorem written_finishAbort (s : State) :
    (finishAbort s).session.totals.written = s.session.totals.written := by
  have kept := cap_written (cap_abortEnded s)
  unfold finishAbort
  dsimp only
  split
  · rw [answer_session]; exact kept
  · exact kept

theorem cap_afterBurst {s : State} (h : s.writer.aborting = false) : Cap s (afterBurst s) := by
  have key : ∀ x, Cap s x → Cap s (if x.stopWork && (leadingFrames x.intake.items).isEmpty then finishStop x else x) :=
    fun x k => Rel.ite (k.trans (cap_finishStop x)) k
  unfold afterBurst
  rw [if_neg (by simp [h])]
  refine key _ ?_
  split
  · exact cap_sealComplete _ s
  · exact Rel.ite (cap_sealSpan s) (Rel.refl s)

theorem written_afterBurst (s : State) : (afterBurst s).session.totals.written = s.session.totals.written := by
  cases h : s.writer.aborting with
  | false => exact cap_written (cap_afterBurst h)
  | true =>
    unfold afterBurst
    rw [if_pos h]
    exact written_finishAbort s

theorem written_passOver (i : Nat) (s : State) :
    (passOver i s).session.totals.written = s.session.totals.written := rfl

/-- Taking an item counts no frame as written: its burst does so once it has completed (R94). -/
theorem written_takeItem (s : State) : (takeItem s).session.totals.written = s.session.totals.written := by
  unfold takeItem
  split
  · exact cap_written (Rel.ite (cap_finishStop s) (Rel.refl s))
  · exact cap_written (cap_reachCut _ s)
  · next i _ _ _ =>
    have early : Cap s (applyChanges i (setWriter (fun w => { w with nextFrame := some i }) s)) :=
      (cap_setWriter rfl).trans (cap_applyChanges _ _)
    dsimp only
    split
    · exact (written_passOver _ _).trans (cap_written early)
    · exact cap_written (early.trans (cap_writeFrames _ _))
    · exact cap_written (early.trans (cap_recordFrame _ _))
    · exact cap_written early

theorem written_askNext (s : State) : (askNext s).session.totals.written = s.session.totals.written := by
  unfold askNext
  split
  · exact (cap_written (cap_settle _)).trans (written_takeItem s)
  · rfl

/-- The frames of a completed burst are counted as written, and nothing that follows counts any. -/
theorem written_writerBurstDone (b : WriterBurst) (s : State) :
    (writerBurstDone b s).session.totals.written = sat s.session.totals.written b.count :=
  calc (writerBurstDone b s).session.totals.written
    _ = (askNext (settle (afterBurst (growthReport b (burstCounts b s))))).session.totals.written :=
        cap_written (eng_engineEvent _).cap
    _ = (settle (afterBurst (growthReport b (burstCounts b s)))).session.totals.written := written_askNext _
    _ = (afterBurst (growthReport b (burstCounts b s))).session.totals.written := cap_written (cap_settle _)
    _ = (growthReport b (burstCounts b s)).session.totals.written := written_afterBurst _
    _ = (burstCounts b s).session.totals.written := cap_written (cap_growthReport b _)
    _ = sat s.session.totals.written b.count := rfl

/-! ## A burst that a STOP has cut off (log entry 15) -/

/-- A writer that waited with a frame to write takes it as the burst completes. -/
theorem strayBurstDone_takes {s : State} (hr : s.writerReady = true) (hn : s.writesNext = true) :
    .next (strayBurstDone s) = exec .writerTakeItem s := by
  rw [exec_writerTakeItem_ready hr]
  unfold strayBurstDone
  rw [if_pos (by simp [hr, hn])]

/-- Settles O21: the bytes are stored first; what follows keeps capture memory, and counts the frames of a burst of the
writer's own only. -/
theorem writerBurstWritesItsBytes : Obligations.WriterBurstWritesItsBytes := by
  unfold Obligations.WriterBurstWritesItsBytes
  intro s b ks hc hb hl written
  have stored : BurstWritten b s (storeBurst b ks s) := burstWritten_storeBurst ks hc hb
  obtain ⟨idle, asked⟩ := storeBurst_requests b ks s
  have rest := storeBurst_rest b ks s
  refine ⟨fun hw => ?own, fun hd => ⟨?stray, fun hs ha i bytes items hi => ?waited⟩⟩
  case own =>
    exact ⟨_, exec_writerBurstDone_writer ks hw hl, stored.sound (sound_writerBurstDone b _),
      written_writerBurstDone b _⟩
  case stray =>
    refine ⟨_, exec_writerBurstDone_stray ks hd hl, stored.sound (sound_strayBurstDone _), fun hq => ?_⟩
    rw [strayBurstDone_arbitrate (s := storeBurst b ks s) hq, arbitrate_eq]
    exact rest
  case waited =>
    have ready : (storeBurst b ks s).writerReady = true :=
      writerReady_recording hs (by simp [MemService.writerBurst, idle, asked, ha]) (by simp [idle])
    exact ⟨_, rest, stored, idle, (exec_writerBurstDone_stray ks hd hl).trans
      (strayBurstDone_takes ready (writesNext_recording hs hi))⟩

end Sys2Proof.Proofs
end

section
/-! PROOF. STOP: a session asked to stop, in each state of the session and of the writer. -/

namespace Sys2Proof.Proofs

open Sys2Proof.Machine Sys2Proof.Laws

/-! ## The taking of STOP (R152, R160) -/

theorem exec_stop {s : State} {p : Port} {r : Passed} (h : Waits s p 0x22 r) (hi : s.session.inProgress = none) :
    exec (.stop p) s = .next (stop r (s.without p 0x22)) := by
  show execStop p s = _
  unfold execStop
  rw [takeSession_of h hi]

theorem stop_stopped {r : Passed} {s : State} (h : s.session.state = .stopped) : stop r s = answer r .busy 0 [] s := by
  unfold stop
  rw [h]

/-- The STOP is the first that a RUNNING session takes. -/
abbrev FirstStop (s : State) : Prop := s.session.state = .running ∧ s.session.stopTaken = false

/-- The state in which a STOP of port p has been taken, before its answer (R160). -/
def stopTakenBy (p : Port) (s : State) : State :=
  if FirstStop s then firstStop (joinDrain p s) else joinDrain p s

theorem stop_taken {r : Passed} {s : State} (h : s.session.state ≠ .stopped) :
    stop r s = answerStop r (stopTakenBy r.port s) := by
  unfold stop stopTakenBy FirstStop
  split
  · next hs => exact absurd hs h
  · next hs => cases ht : s.session.stopTaken <;> simp [hs]
  · next hs => rw [if_neg (fun k => hs k.1)]

theorem sound_stopTakenBy (p : Port) (s : State) : Sound s (stopTakenBy p s) := by
  unfold stopTakenBy
  exact Sound.ite ((sound_joinDrain p s).trans (sound_firstStop _)) (sound_joinDrain p s)

/-- The payload of STOP's completion (R160). -/
def stopPayload (v : State) : List Field := [⟨0, 1, v.session.state.code⟩, ⟨1, 1, bit v.session.stopTaken 0⟩]

theorem answerStop_eq (r : Passed) (v : State) :
    answerStop r v = captureEvent (answer r .ok 0 (stopPayload v) v) := rfl

/-- The drain set of `t` is that of `s` with port p (R160). -/
structure PortDrains (p : Port) (s t : State) : Prop where
  drain0 : t.session.drain0 = (s.session.drain0 || decide (p = .p0))
  drain1 : t.session.drain1 = (s.session.drain1 || decide (p = .p1))

theorem portDrains_joinDrain (p : Port) (s : State) : PortDrains p s (joinDrain p s) := by
  cases p <;> constructor <;> simp [joinDrain]

/-- A port that joins the drain set changes nothing else of the session. -/
theorem joinDrain_session (p : Port) (s : State) :
    (joinDrain p s).session.state = s.session.state ∧ (joinDrain p s).session.stopTaken = s.session.stopTaken := by
  cases p <;> exact ⟨rfl, rfl⟩

theorem joinDrain_rest (p : Port) (s : State) : { joinDrain p s with session := s.session } = s := rfl

/-! ## The aligner at STOP (R124) -/

/-- A STOP changes the aligner and the counters of triggers only. -/
theorem alignerStop_eq (s : State) :
    alignerStop s = { s with aligner := (alignerStop s).aligner, counters := (alignerStop s).counters } := by
  have cleared := clearPending_eq s
  unfold alignerStop
  dsimp only
  generalize clearPending s = x at cleared ⊢
  generalize ({ s.aligner with pending := none } : Aligner) = a at cleared
  rw [cleared]
  dsimp only
  split
  · rfl
  · rfl
  · split <;> rfl
  · split <;> rfl
  · rfl

/-- The aligner has a record to see sealed, or hands one over (R124). -/
def AwaitsSeal (a : Aligner) : Prop :=
  a.state = .capturing ∨ a.handOver ≠ none ∧ (a.state = .arming ∨ a.state = .armed)

theorem alignerStop_awaitsSeal {s : State} (h : AwaitsSeal s.aligner) :
    alignerStop s = setAligner (fun a => { a with disarmAfterSeal := true }) (clearPending s) := by
  unfold alignerStop
  rw [clearPending_eq]
  dsimp only
  rcases h with hc | ⟨ho, ha | ha⟩
  · rw [hc]
  · rw [ha]; exact if_pos (Option.isSome_iff_ne_none.mpr ho)
  · rw [ha]; exact if_pos (Option.isSome_iff_ne_none.mpr ho)

theorem alignerStop_marking {s : State} (h : s.aligner.state = .marking) : alignerStop s = clearPending s := by
  unfold alignerStop
  rw [clearPending_eq]
  dsimp only
  rw [h]

/-! ## The first STOP of a RUNNING session (R106, R160) -/

/-- Aligner and writer have been told of the STOP. -/
def stopTold (s : State) : State := setWriter (fun w => { w with stopping := true }) (alignerStop s)

/-- What the aligner and the writer told of a STOP leave. -/
structure StopTold (s t : State) : Prop where
  writer : t.writer = { s.writer with stopping := true }
  intake : t.intake = s.intake
  mem : t.mem = s.mem
  session : t.session = s.session
  awaits : AwaitsSeal s.aligner → t.aligner.state = s.aligner.state ∧ t.aligner.disarmAfterSeal = true
  marking : s.aligner.state = .marking → t.aligner.state = .marking

theorem stopTold_spec (s : State) : StopTold s (stopTold s) := by
  have told := alignerStop_eq s
  refine ⟨?_, ?_, ?_, ?_, fun h => ?awaits, fun h => ?marking⟩
  case awaits =>
    unfold stopTold
    rw [alignerStop_awaitsSeal h, clearPending_eq]
    exact ⟨rfl, rfl⟩
  case marking =>
    unfold stopTold
    rw [alignerStop_marking h, clearPending_eq]
    exact h
  all_goals
    unfold stopTold
    rw [told]
    rfl

/-- The writer holds a segmented record that will complete (R106). -/
theorem willComplete_iff {w : Writer} :
    w.willComplete = true ↔
      w.params.mode = .segmented ∧ (w.state = .recording ∨ w.state = .pretrigger ∧ w.handed ≠ none) := by
  simp [Writer.willComplete, Option.isSome_iff_ne_none]

theorem willComplete_stopTold (s : State) : (stopTold s).writer.willComplete = s.writer.willComplete := by
  rw [(stopTold_spec s).writer]
  rfl

theorem firstStop_completes {s : State} (h : s.writer.willComplete = true) :
    firstStop s = setSession (fun k => { k with state := .finishing }) (stopTold s) :=
  if_pos ((willComplete_stopTold s).trans h)

/-- The STOP is taken with no record to complete, and the intake CLOSED. -/
def intakeClosed (s : State) : State :=
  setIntake (fun k => { k with state := .closed, inTransfer := .nothing })
    (setSession (fun k => { k with stopTaken := true }) (stopTold s))

/-- What a STOP with no record to complete leaves before the writer's own action. -/
theorem intakeClosed_fields (s : State) :
    (intakeClosed s).writer = { s.writer with stopping := true } ∧ (intakeClosed s).mem = s.mem ∧
      (intakeClosed s).intake = { s.intake with state := .closed, inTransfer := .nothing } ∧
      (intakeClosed s).session = { s.session with stopTaken := true } ∧
      (intakeClosed s).aligner = (stopTold s).aligner := by
  obtain ⟨writer, intake, mem, session, -, -⟩ := stopTold_spec s
  unfold intakeClosed setIntake setSession
  rw [session, intake]
  exact ⟨writer, mem, rfl, rfl, rfl⟩

theorem firstStop_closes {s : State} (h : ¬ s.writer.willComplete = true) :
    firstStop s = writerStop (intakeClosed s) :=
  if_neg (fun k => h ((willComplete_stopTold s).symm.trans k))

/-- Nothing is left for a RECORDING writer to write. -/
def NothingToWrite (s : State) : Prop := s.mem.writerBurst = none ∧ leadingFrames s.intake.items = []

/-- A RECORDING writer with a burst or frames to write goes on (R106). -/
theorem writerStop_writes {s : State} (hs : s.writer.state = .recording)
    (hw : s.mem.writerBurst ≠ none ∨ leadingFrames s.intake.items ≠ []) : writerStop s = s := by
  unfold writerStop
  rw [hs]
  refine if_neg ?_
  simpa [or_iff_not_imp_left] using hw

/-- Any other writer ends the session's writing at once (R106, R160). -/
theorem writerStop_ends {s : State} (h : s.writer.state = .recording → NothingToWrite s) :
    ∃ x, writerStop s = finishStop x ∧ x.session.drain0 = s.session.drain0 ∧
      x.session.drain1 = s.session.drain1 := by
  unfold writerStop
  split
  · exact ⟨_, rfl, rfl, rfl⟩
  · exact ⟨_, rfl, by rw [(leaveStarved_fields s).1], by rw [(leaveStarved_fields s).1]⟩
  · next hs =>
    obtain ⟨noBurst, noFrames⟩ := h hs
    exact ⟨s, if_pos (by simp [noBurst, noFrames]), rfl, rfl⟩
  · exact ⟨s, rfl, rfl, rfl⟩

/-- The session's writing has ended: writer and intake IDLE, the buffer empty, the aligner DISARMED (R107, R161). -/
structure WritingEnded (t : State) : Prop where
  session : t.session.state = .stopped ∨ t.session.state = .draining
  writer : t.writer.state = .idle
  noRecord : t.writer.openRec = none
  intake : t.intake.state = .idle
  items : t.intake.items = []
  aligner : t.aligner.state = .disarmed

/-- What the first STOP leaves, by what the writer has to do. -/
structure FirstStopTaken (s t : State) : Prop where
  drain0 : t.session.drain0 = s.session.drain0
  drain1 : t.session.drain1 = s.session.drain1
  completes :
    s.writer.willComplete = true →
      t.session.state = .finishing ∧ t.intake = s.intake ∧ t.writer = { s.writer with stopping := true } ∧
        (AwaitsSeal s.aligner → t.aligner.state = s.aligner.state ∧ t.aligner.disarmAfterSeal = true)
  writes :
    ¬ s.writer.willComplete = true → s.writer.state = .recording →
      s.mem.writerBurst ≠ none ∨ leadingFrames s.intake.items ≠ [] →
        t.session.state = s.session.state ∧ t.session.stopTaken = true ∧ t.intake.state = .closed ∧
          t.intake.items = s.intake.items ∧ t.writer = { s.writer with stopping := true } ∧ t.mem = s.mem ∧
          (s.aligner.state = .marking → t.aligner.state = .marking)
  ends :
    ¬ s.writer.willComplete = true → (s.writer.state = .recording → NothingToWrite s) → WritingEnded t

theorem writingEnded_finishStop (s : State) : WritingEnded (finishStop s) := by
  obtain ⟨session, writer, intake, items, aligner, -, -⟩ := finishStop_fields s
  exact ⟨session, by rw [writer]; rfl, by rw [writer]; rfl, intake, items, aligner⟩

theorem firstStop_goesOn {s : State} (hn : ¬ s.writer.willComplete = true) (hs : s.writer.state = .recording)
    (hw : s.mem.writerBurst ≠ none ∨ leadingFrames s.intake.items ≠ []) : firstStop s = intakeClosed s := by
  obtain ⟨writer, mem, intake, -, -⟩ := intakeClosed_fields s
  rw [firstStop_closes hn]
  exact writerStop_writes (by rw [writer]; exact hs) (by rw [mem, intake]; exact hw)

theorem firstStop_ends {s : State} (hn : ¬ s.writer.willComplete = true)
    (hw : s.writer.state = .recording → NothingToWrite s) :
    ∃ x, firstStop s = finishStop x ∧ x.session.drain0 = s.session.drain0 ∧ x.session.drain1 = s.session.drain1 := by
  obtain ⟨writer, mem, intake, session, -⟩ := intakeClosed_fields s
  obtain ⟨x, ended, drain0, drain1⟩ :=
    writerStop_ends (s := intakeClosed s) (by unfold NothingToWrite; rw [writer, mem, intake]; exact hw)
  exact ⟨x, (firstStop_closes hn).trans ended, by rw [drain0, session], by rw [drain1, session]⟩

theorem firstStop_spec (s : State) : FirstStopTaken s (firstStop s) := by
  obtain ⟨writer, intake, mem, session, awaits, marking⟩ := stopTold_spec s
  by_cases complete : s.writer.willComplete = true
  · rw [firstStop_completes complete]
    exact ⟨by rw [setSession_session, session], by rw [setSession_session, session],
      fun _ => ⟨rfl, intake, writer, awaits⟩, fun hn => absurd complete hn, fun hn => absurd complete hn⟩
  · by_cases writes : s.writer.state = .recording ∧ (s.mem.writerBurst ≠ none ∨ leadingFrames s.intake.items ≠ [])
    · obtain ⟨closedWriter, closedMem, closedIntake, closedSession, closedAligner⟩ := intakeClosed_fields s
      obtain ⟨recording, work⟩ := writes
      rw [firstStop_goesOn complete recording work]
      refine ⟨by rw [closedSession], by rw [closedSession], fun h => absurd h complete, fun _ _ _ => ?goesOn,
        fun _ h => ?nothing⟩
      case goesOn =>
        rw [closedSession, closedIntake, closedAligner]
        exact ⟨rfl, rfl, rfl, rfl, closedWriter, closedMem, marking⟩
      case nothing =>
        obtain ⟨noBurst, noFrames⟩ := h recording
        exact absurd work (by simp [noBurst, noFrames])
    · have nothing : s.writer.state = .recording → NothingToWrite s := by
        intro recording
        simpa [NothingToWrite, recording, not_or] using writes
      obtain ⟨x, ended, drain0, drain1⟩ := firstStop_ends complete nothing
      obtain ⟨-, -, -, -, -, kept0, kept1⟩ := finishStop_fields x
      rw [ended]
      exact ⟨kept0.trans drain0, kept1.trans drain1, fun h => absurd h complete,
        fun _ hs hw => absurd ⟨hs, hw⟩ writes, fun _ _ => writingEnded_finishStop x⟩

/-! ## Every STOP (R160) -/

theorem portDrains_stopTakenBy (p : Port) (s : State) : PortDrains p s (stopTakenBy p s) := by
  have joined := portDrains_joinDrain p s
  unfold stopTakenBy
  split
  · have first := firstStop_spec (joinDrain p s)
    exact ⟨first.drain0.trans joined.drain0, first.drain1.trans joined.drain1⟩
  · exact joined

theorem stopTakenBy_first {p : Port} {s : State} (h : FirstStop s) : FirstStopTaken (joinDrain p s) (stopTakenBy p s) := by
  unfold stopTakenBy
  rw [if_pos h]
  exact firstStop_spec _

/-- A STOP out of RUNNING, or after one taken, changes the drain set only. -/
theorem stopTakenBy_again {p : Port} {s : State} (h : ¬ FirstStop s) :
    { stopTakenBy p s with session := s.session } = s ∧ (stopTakenBy p s).session.state = s.session.state := by
  unfold stopTakenBy
  rw [if_neg h]
  exact ⟨joinDrain_rest p s, (joinDrain_session p s).1⟩

/-- Settles O55: BUSY in STOPPED; else the STOP is taken, as the session and the writer stand, and answered, and what
follows settles. -/
theorem sessionStops : Obligations.SessionStops := by
  unfold Obligations.SessionStops
  intro p s r h hi completes writes
  have run := exec_stop h hi
  refine ⟨fun hs => ⟨_, by rw [run, stop_stopped (s := s.without p 0x22) hs], refused_without h _⟩, fun hs => ?taken⟩
  case taken =>
  rw [stop_taken (s := s.without p 0x22) hs, (Waits.port h).1, answerStop_eq] at run
  have queue := fun q => queueKept_trans (queueKept_without s p 0x22 q) ((sound_stopTakenBy p (s.without p 0x22)).queue q)
  obtain ⟨drain0, drain1⟩ := portDrains_stopTakenBy p (s.without p 0x22)
  have again := stopTakenBy_again (p := p) (s := s.without p 0x22)
  have first := stopTakenBy_first (p := p) (s := s.without p 0x22)
  have running := (joinDrain_session p (s.without p 0x22)).1
  have cells := (sound_execStop (p := p) (s := s) run).cells
  generalize stopTakenBy p (s.without p 0x22) = v at *
  have answered := answered_cap
    (answered_after queue (replied_answered (replied_answer h.live .ok 0 (stopPayload v) (fun _ => rfl))))
    (cap_captureEvent _)
  refine ⟨v, _, run, followedByCapture _, answered, drain0, drain1, fun hn => again ?_, fun hr ht hc => ?completes,
    fun hr ht hw => ?writes, fun hr ht hc hw => ?ends, cells⟩
  · rintro ⟨hr, ht⟩
    rcases hn with hn | hn
    · exact hn hr
    · exact absurd (ht.symm.trans hn) (by simp)
  case completes => exact (first ⟨hr, ht⟩).completes (willComplete_iff.mpr hc)
  case writes =>
    obtain ⟨mode, state, work⟩ := hw
    have goesOn : ¬ s.writer.willComplete = true := fun k => absurd (mode.symm.trans (willComplete_iff.mp k).1) (by simp)
    obtain ⟨session, rest⟩ := (first ⟨hr, ht⟩).writes goesOn state work
    exact ⟨session.trans (running.trans hr), rest⟩
  case ends =>
    have nothing : s.writer.state = .recording → NothingToWrite s := by
      intro state
      cases mode : s.writer.params.mode with
      | segmented => exact absurd ⟨mode, .inl state⟩ hc
      | continuous => simpa [NothingToWrite, writes, mode, state, not_or] using hw
    obtain ⟨session, writer, record, intake, items, aligner⟩ :=
      (first ⟨hr, ht⟩).ends (fun k => hc (willComplete_iff.mp k)) nothing
    exact ⟨session, writer, record, intake, items, aligner⟩

end Sys2Proof.Proofs
end

section
/-! PROOF. ABORT: a session ended at once, or once the granted write burst has completed. -/

namespace Sys2Proof.Proofs

open Sys2Proof.Machine Sys2Proof.Laws

/-! ## The taking of ABORT (R152, R164) -/

theorem exec_abort {s : State} {p : Port} {r : Passed} (h : Waits s p 0x23 r) (hi : s.session.inProgress = none) :
    exec (.abort p) s = .next (abort r (s.without p 0x23)) := by
  show execAbort p s = _
  unfold execAbort
  rw [takeSession_of h hi]

/-- ABORT by request `r` is in progress (R152). -/
def abortInProgress (r : Passed) (s : State) : State := setSession (fun k => { k with inProgress := some (.abort r) }) s

theorem abort_stopped {r : Passed} {s : State} (h : s.session.state = .stopped) : abort r s = answer r .busy 0 [] s := by
  unfold abort
  rw [h]

theorem abort_draining {r : Passed} {s : State} (h : s.session.state = .draining) :
    abort r s = answer r .ok 0 [] (sendDrainDone (enterStopped abortedFlags s)) := by
  unfold abort
  rw [h]
  rfl

theorem abort_atWork {r : Passed} {s : State} (h : s.session.state = .running ∨ s.session.state = .finishing) :
    abort r s = captureEvent (abortSession (abortInProgress r s)) := by
  unfold abort
  rcases h with h | h <;> (rw [h]; rfl)

/-! ## ABORT in RUNNING and FINISHING (R108, R124, R137, R164) -/

/-- The intake, the aligner and the writer have been told of the ABORT. -/
def abortTold (s : State) : State :=
  setWriter (fun w => { w with aborting := true, handed := none, gapFollowUp := false, changes := [] })
    (leaveStarved (withdrawWriter (alignerAbort (intakeAbort s))))

theorem abortSession_eq (s : State) :
    abortSession s = if (abortTold s).mem.writerBurst.isSome then abortTold s else finishAbort (abortTold s) := rfl

/-- The frames that a granted writer burst still holds. -/
def heldItems (s : State) : List Item := s.intake.items.take s.mem.grantedCount

/-- The frames that an ABORT drops (R137). -/
def abortDrops (s : State) : Nat := frameCount s.intake.items - frameCount (heldItems s)

theorem intakeAbort_fields (s : State) :
    (intakeAbort s).session =
        { s.session with
          totals := { s.session.totals with dropped := sat s.session.totals.dropped (abortDrops s) } } ∧
      (intakeAbort s).mem = s.mem ∧
      (intakeAbort s).intake = { clearedIntake s.intake with items := heldItems s } ∧
      ∀ p, (intakeAbort s).port p = s.port p := by
  unfold intakeAbort countAbortDrops
  dsimp only
  rw [setIntake_session, addTotals_session, countIntake_session, setIntake_mem, addTotals_mem, countIntake_mem,
    setIntake_intake, addTotals_intake, countIntake_intake]
  exact ⟨rfl, rfl, rfl, fun p => by rw [setIntake_port, addTotals_port, countIntake_port]⟩

theorem alignerAbort_fields (s : State) :
    (alignerAbort s).session = s.session ∧ (alignerAbort s).mem = s.mem ∧ (alignerAbort s).intake = s.intake ∧
      (alignerAbort s).aligner.pending = none := triggersIgnored_fields s

theorem alignerAbort_port (s : State) (p : Port) : PortKept (s.port p) ((alignerAbort s).port p) := by
  have kept := (cap_triggersIgnored s).ports p
  cases p <;> exact kept

theorem withdrawWriter_port (s : State) (p : Port) : (withdrawWriter s).port p = s.port p := by cases p <;> rfl

/-- What an ABORT taken at work leaves before the writer's end. -/
structure AbortTold (s t : State) : Prop where
  session :
    t.session =
      { s.session with totals := { s.session.totals with dropped := sat s.session.totals.dropped (abortDrops s) } }
  mem : t.mem = { s.mem with writerAsk := none }
  intake : t.intake = { clearedIntake s.intake with items := heldItems s }
  notPending : t.aligner.pending = none
  notHanded : t.writer.handed = none
  unchanged : t.writer.changes = []
  ports : ∀ p, PortKept (s.port p) (t.port p)

theorem abortTold_spec (s : State) : AbortTold s (abortTold s) := by
  obtain ⟨session, mem, intake, ports⟩ := intakeAbort_fields s
  obtain ⟨sameSession, sameMem, sameIntake, pending⟩ := alignerAbort_fields (intakeAbort s)
  have kept := alignerAbort_port (intakeAbort s)
  unfold abortTold
  generalize alignerAbort (intakeAbort s) = x at *
  obtain ⟨leftSession, leftAligner, leftMem, leftIntake, -⟩ := leaveStarved_fields (withdrawWriter x)
  have told := (cap_leaveStarved (withdrawWriter x)).ports
  refine ⟨leftSession.trans (sameSession.trans session), leftMem.trans ?_, leftIntake.trans (sameIntake.trans intake),
    (congrArg Aligner.pending leftAligner).trans pending, rfl, rfl, fun p => ?_⟩
  · rw [← mem, ← sameMem]
    rfl
  · have first := ports p ▸ kept p
    rw [setWriter_port]
    exact portKept_trans first (withdrawWriter_port x p ▸ told p)

theorem writerBurst_withdrawn (m : MemService) (b : WriterBurst) :
    ({ m with writerAsk := none } : MemService).writerBurst = some b ↔ m.busy = some (.writer b) := by
  unfold MemService.writerBurst
  dsimp only
  split <;> simp_all

/-- A granted writer burst is waited for (R108). -/
theorem abortSession_waits {s : State} {b : WriterBurst} (h : s.mem.busy = some (.writer b)) :
    abortSession s = abortTold s := by
  have granted : (abortTold s).mem.writerBurst = some b := by
    rw [(abortTold_spec s).mem]
    exact (writerBurst_withdrawn s.mem b).mpr h
  rw [abortSession_eq, if_pos (by simp [granted])]

theorem abortSession_ends {s : State} (h : ∀ b, s.mem.busy ≠ some (.writer b)) :
    abortSession s = finishAbort (abortTold s) := by
  have free : (abortTold s).mem.writerBurst = none := by
    rw [(abortTold_spec s).mem]
    exact Option.eq_none_iff_forall_ne_some.mpr (fun b k => h b ((writerBurst_withdrawn s.mem b).mp k))
  rw [abortSession_eq, if_neg (by simp [free])]

/-- With no writer burst granted every buffered frame is dropped (R137). -/
theorem abortDrops_all {s : State} (h : ∀ b, s.mem.busy ≠ some (.writer b)) :
    abortDrops s = frameCount s.intake.items := by
  have noFrames : s.mem.grantedCount = 0 := by
    unfold MemService.grantedCount
    split
    · next b hb => exact absurd hb (h b)
    · rfl
  unfold abortDrops heldItems
  rw [noFrames]
  rfl

/-- With nothing to settle, an answer outside DRAINING is followed by the engine and the arbiter only. -/
theorem engineKeeps_answer {v : State} (rejudge : v.aligner.rejudge = false) (handed : v.writer.handed = none)
    (changes : v.writer.changes = []) (hd : v.session.state ≠ .draining) (r : Passed) (st : Status) (d : Nat)
    (pay : List Field) : EngineKeeps v (captureEvent (answer r st d pay v)) := by
  have quiet : captureEvent (answer r st d pay v) = engineEvent (answer r st d pay v) :=
    captureEvent_quiet (by rw [answer_aligner]; exact rejudge) (by rw [answer_writer]; exact handed)
      (by rw [answer_writer]; exact changes)
  have kept := engineKeeps_engineEvent (u := answer r st d pay v) (by rw [answer_session]; exact hd)
  rw [quiet]
  generalize engineEvent (answer r st d pay v) = t at kept
  obtain ⟨number, state, totals, config, order, cells, intake, aligner, writer⟩ := kept
  rw [answer_catalog] at number
  rw [answer_session] at state totals config
  rw [answer_mem] at order cells
  rw [answer_intake] at intake
  rw [answer_aligner] at aligner
  rw [answer_writer] at writer
  exact ⟨number, state, totals, config, order, cells, intake, aligner, writer⟩

theorem AbortEnded.settled {s v : State} (h : AbortEnded s v) (r : Passed) :
    EngineKeeps v (captureEvent (answer r .ok 0 [] v)) := by
  obtain ⟨_, aligner⟩ := h.aligner
  obtain ⟨_, writer⟩ := h.writer
  exact engineKeeps_answer (by rw [aligner]; rfl) (by rw [writer]; rfl) (by rw [writer]; rfl)
    (by rw [h.session]; simp) r .ok 0 []

/-- An ABORT that waits has nothing to settle but the aligner's mark of a trigger to judge again. -/
theorem AbortTold.settled {s t : State} (h : AbortTold s t) : (captureEvent t).intake.state = .idle := by
  have quiet := settle_nothing h.notPending h.notHanded h.unchanged
  have intake : (captureEvent t).intake = (settle t).intake :=
    (congrArg (fun x : State => x.intake) (eng_engineEvent (settle t)).view :)
  rw [intake, quiet, setAligner_intake, h.intake]
  rfl

/-- Settles O56: BUSY in STOPPED; DRAIN_DONE and the answer in DRAINING; at work the session ends at once, or the
completion waits for the granted burst. -/
theorem sessionAborts : Obligations.SessionAborts := by
  unfold Obligations.SessionAborts
  intro p s r h hi
  have run := exec_abort h hi
  have cells := fun t (k : exec (.abort p) s = .next t) => (sound_execAbort (p := p) (s := s) k).cells
  have without := queueKept_without s p 0x23
  refine ⟨fun hs => ?stopped, fun hs => ?draining, fun hs hb => ?ends, fun hs b hb => ?waits⟩
  case stopped => exact ⟨_, by rw [run, abort_stopped (s := s.without p 0x23) hs], refused_without h _⟩
  case draining =>
    rw [abort_draining (s := s.without p 0x23) hs] at run
    have drained := drainAborted_spec (s.without p 0x23)
    generalize sendDrainDone (enterStopped abortedFlags (s.without p 0x23)) = v at *
    have answered := answered_after (fun q => queueKept_trans (without q) (drained.queue q))
      (replied_answered (replied_answer h.live .ok 0 [] (fun _ => rfl)))
    refine ⟨_, run, answered, ?_⟩
    rw [answer_session, drained.session, answer_engine, answer_mem, answer_blocks]
    exact ⟨rfl, rfl, rfl, rfl, fun k => notified_answer (drained.told0 k) h.live .ok 0 [],
      fun k => notified_answer (drained.told1 k) h.live .ok 0 [], drained.engine, drained.mem, drained.blocks⟩
  case ends =>
    rw [abort_atWork (s := s.without p 0x23) hs, abortSession_ends (s := abortInProgress r (s.without p 0x23)) hb] at run
    have told := abortTold_spec (abortInProgress r (s.without p 0x23))
    have drops := abortDrops_all (s := abortInProgress r (s.without p 0x23)) hb
    generalize abortTold (abortInProgress r (s.without p 0x23)) = x at *
    have inProgress : x.session.inProgress = some (.abort r) := by rw [told.session]; rfl
    rw [finishAbort_answers inProgress] at run
    have ended := abortEnded_spec x
    generalize setSession (fun k => { k with inProgress := none }) (abortEnded x) = v at *
    have kept := ended.settled r
    have follows := cap_captureEvent (answer r .ok 0 [] v)
    have queue := fun q => queueKept_trans (without q)
      (queueKept_trans (setSession_port _ (s.without p 0x23) q ▸ (told.ports q).queue) (ended.queue q))
    have answered := answered_cap (answered_after queue (replied_answered (replied_answer h.live .ok 0 [] (fun _ => rfl))))
      follows
    obtain ⟨_, writer⟩ := ended.writer
    obtain ⟨_, aligner⟩ := ended.aligner
    refine ⟨_, run, answered, by rw [kept.state, ended.session], ?inProgress, by rw [kept.writer, writer]; rfl,
      by rw [kept.writer, writer]; rfl, by rw [kept.intake, ended.intake]; rfl, by rw [kept.intake, ended.intake]; rfl,
      by rw [kept.intake, ended.intake]; rfl, by rw [kept.aligner, aligner]; rfl, ?dropped, ?written, cells _ run⟩
    case inProgress => rw [cap_inProgress follows, answer_session, ended.session]
    case dropped => rw [kept.totals, ended.session, told.session, drops]; rfl
    case written => rw [kept.totals, ended.session, told.session]; rfl
  case waits =>
    rw [abort_atWork (s := s.without p 0x23) hs, abortSession_waits (s := abortInProgress r (s.without p 0x23)) hb] at run
    have told := abortTold_spec (abortInProgress r (s.without p 0x23))
    generalize abortTold (abortInProgress r (s.without p 0x23)) = x at *
    have follows := cap_captureEvent x
    refine ⟨_, run, ?inProgress, told.settled, cells _ run, ?inHand⟩
    case inProgress => rw [cap_inProgress follows, told.session]; rfl
    case inHand =>
      rw [portKept_inHand (follows.ports p), portKept_inHand (told.ports p), abortInProgress, setSession_port,
        without_port]

end Sys2Proof.Proofs
end

section
/-! PROOF. The trigger link: a trigger message is stamped, and judged by the rows of R114, R115, R121 and R122. -/

namespace Sys2Proof.Proofs

open Sys2Proof.Machine Sys2Proof.Laws

/-! ## The taking of a trigger message (R109) -/

/-- A trigger message leads to `u`, after which aligner, writer, engine and arbiter settle. -/
def Leads (m : TrigMessage) (s u : State) : Prop := ∃ t, exec (.triggerMessage m) s = .next t ∧ FollowedByCapture u t

theorem exec_triggerMessage_idle {s : State} (h : s.counting = false) (m : TrigMessage) :
    exec (.triggerMessage m) s = .next s := by
  show execTriggerMessage m s = _
  unfold execTriggerMessage
  rw [if_neg (by simp [h])]

theorem leads_of_judged {m : TrigMessage} {s u : State} (hc : s.counting = true) (h : (judgeMessage m s).2 = u) :
    Leads m s u := by
  refine ⟨captureEvent u, ?_, followedByCapture u⟩
  show execTriggerMessage m s = _
  unfold execTriggerMessage
  rw [if_pos hc, h]

/-- One trigger of outcome `o` has been counted, and nothing else has changed (R109, R180). -/
def counted (o : TrigOutcome) (s : State) : State :=
  { s with counters := { s.counters with trigger := o.count 1 s.counters.trigger } }

theorem discardTrigger_counting {s : State} (hc : s.counting = true) (o : TrigOutcome) :
    (discardTrigger o s).2 = counted o s := if_pos hc

theorem leads_of_discarded {m : TrigMessage} {s : State} {o : TrigOutcome} (hc : s.counting = true)
    (h : judgeMessage m s = discardTrigger o s) : Leads m s (counted o s) :=
  leads_of_judged hc (by rw [h, discardTrigger_counting hc])

/-! ## Stamps (R110) -/

theorem judgeMessage_stamped {m : TrigMessage} {tr : Trigger} {s : State} (h : Stamped m tr s.aligner) :
    judgeMessage m s = judge tr s := by
  obtain ⟨frame, fine, source, stamp⟩ := tr
  rcases h with ⟨index, rfl, rfl, rfl⟩ | ⟨n, rfl, newest, latency, rfl, rfl⟩
  · rfl
  · show judgeRaw source fine s.aligner.params.rawLatency s = _
    unfold judgeRaw
    rw [newest]
    exact if_neg (by omega)

theorem judgeMessage_unstamped {src : TrigSource} {fine : Byte} {s : State}
    (h : ∀ n, s.aligner.newest = some n → n < s.aligner.params.rawLatency) :
    judgeMessage (.raw src fine) s = discardTrigger .stale s := by
  show judgeRaw src fine s.aligner.params.rawLatency s = _
  unfold judgeRaw
  split
  · rfl
  · next n newest => exact if_pos (h n newest)

/-! ## The judging by mode (R114, R122) -/

theorem judge_inEpisode {tr : Trigger} {s : State} (h : s.inEpisode tr.frame = true) :
    judge tr s = discardTrigger .lostToDrop s := by
  unfold judge
  split
  · exact if_pos h
  · exact if_pos h

theorem judge_segmented_ahead {tr : Trigger} {s : State} (he : s.inEpisode tr.frame = false)
    (hm : s.aligner.params.mode = .segmented) (h : ∀ n, s.aligner.newest = some n → n < tr.frame) :
    judge tr s = makePending tr s := by
  have ahead : s.aligner.newest.any (fun n => decide (tr.frame ≤ n)) = false := by
    cases newest : s.aligner.newest with
    | none => rfl
    | some n => exact decide_eq_false (Nat.not_le.mpr (h n newest))
  unfold judge judgeSegmented
  simp only [hm, he, ahead, Bool.false_eq_true, if_false]

theorem judge_segmented_received {tr : Trigger} {s : State} {n : Nat} (he : s.inEpisode tr.frame = false)
    (hm : s.aligner.params.mode = .segmented) (hn : s.aligner.newest = some n) (h : tr.frame ≤ n) :
    judge tr s = judgeByState tr s := by
  unfold judge judgeSegmented
  simp only [hm, he, hn, h, Option.any_some, decide_true, Bool.false_eq_true, if_false, if_true]

theorem judge_continuous_ignores {tr : Trigger} {s : State} (he : s.inEpisode tr.frame = false)
    (hm : s.aligner.params.mode = .continuous)
    (h : s.aligner.state ≠ .marking ∨ s.aligner.params.markEnabled tr.source = false) :
    judge tr s = discardTrigger .ignored s := by
  unfold judge judgeContinuous
  simp only [hm, he, Bool.false_eq_true, if_false]
  exact if_pos (by simpa using h)

/-- A MARKING aligner makes a trigger of a mark-enabled source a mark, from the record's first frame `x` on (R122). -/
theorem judge_continuous_marks {tr : Trigger} {s : State} {x : Nat} (he : s.inEpisode tr.frame = false)
    (hm : s.aligner.params.mode = .continuous) (hs : s.aligner.state = .marking)
    (hk : s.aligner.params.markEnabled tr.source = true)
    (hx : (s.aligner.capture.map (fun c => c.first)).or s.aligner.firstFrame = some x) :
    judge tr s = if tr.frame < x then discardTrigger .late s else makeMark tr s := by
  unfold judge judgeContinuous
  simp only [hm, he, hs, hk, Bool.false_eq_true, if_false, ne_eq, not_true_eq_false, decide_false, Bool.not_true,
    Bool.or_self]
  cases hc : s.aligner.capture with
  | none =>
    rw [hc] at hx
    have first : s.aligner.firstFrame = some x := hx
    simp only [first, Option.getD_some]
  | some c =>
    rw [hc] at hx
    obtain rfl : c.first = x := Option.some.inj hx
    rfl

/-! ## The judging by the aligner's state (R114) -/

theorem judgeByState_late {tr : Trigger} {s : State} (hs : s.aligner.state = .disarmed ∨ s.aligner.state = .holdoff)
    (hl : s.aligner.inLastSealed tr.frame = true) (hk : s.aligner.params.markEnabled tr.source = true) :
    judgeByState tr s = discardTrigger .late s := by
  unfold judgeByState
  rcases hs with hs | hs <;> simp only [hs, hl, hk, Bool.and_self, if_true]

theorem judgeByState_disarmed {tr : Trigger} {s : State} (hs : s.aligner.state = .disarmed)
    (hl : s.aligner.inLastSealed tr.frame = false ∨ s.aligner.params.markEnabled tr.source = false) :
    judgeByState tr s = discardTrigger .ignored s := by
  have notLate := Bool.and_eq_false_iff.mpr hl
  unfold judgeByState
  simp only [hs, notLate, Bool.false_eq_true, if_false]

theorem judgeByState_holdoff {tr : Trigger} {s : State} {e : Nat} (hs : s.aligner.state = .holdoff)
    (hl : s.aligner.inLastSealed tr.frame = false ∨ s.aligner.params.markEnabled tr.source = false)
    (he : s.aligner.holdoffEnd = some e) :
    judgeByState tr s = if tr.frame ≤ e then discardTrigger .ignored s else makePending tr s := by
  have notLate := Bool.and_eq_false_iff.mpr hl
  unfold judgeByState
  simp only [hs, notLate, he, Bool.false_eq_true, if_false, Option.getD_some]

theorem judgeByState_capturing {tr : Trigger} {s : State} {c : CaptureRecord} {l : Nat}
    (hs : s.aligner.state = .capturing) (hc : s.aligner.capture = some c) (hl : c.last = some l) :
    judgeByState tr s =
      if tr.frame < c.first then
        if s.aligner.params.markEnabled tr.source then discardTrigger .late s else discardTrigger .ignored s
      else judgeRange tr l s := by
  unfold judgeByState
  simp only [hs, hc, hl, Option.getD_some]

theorem judgeByState_handedOver {tr : Trigger} {s : State} {h : HandOver}
    (hs : s.aligner.state = .arming ∨ s.aligner.state = .armed) (hh : s.aligner.handOver = some h) :
    judgeByState tr s =
      if tr.frame < h.frame then discardTrigger .overrun s else judgeRange tr h.last s := by
  unfold judgeByState
  rcases hs with hs | hs <;> simp only [hs, hh]

/-- ARMING and ARMED with no hand-over, from the arming frame `x` on: an early trigger may be ignored, any other is handed
to the writer (R114, R116). -/
theorem judgeByState_awaiting {tr : Trigger} {s : State} {x : Nat}
    (hs : s.aligner.state = .arming ∨ s.aligner.state = .armed) (hh : s.aligner.handOver = none)
    (hx : s.aligner.armingFrame = some x) :
    judgeByState tr s =
      if tr.frame < x then discardTrigger .stale s
      else if s.aligner.state = .arming ∧ s.aligner.params.early = .ignore then discardTrigger .early s
      else handTrigger tr s := by
  unfold judgeByState
  rcases hs with hs | hs <;> simp [hs, hh, hx]

/-! ## Where a judging ends: a pending trigger, a mark, the range of a record -/

/-- The rows of a trigger made pending (R115). -/
def Pends (m : TrigMessage) (tr : Trigger) (s : State) : Prop :=
  (s.aligner.pending = none → Leads m s { s with aligner := { s.aligner with pending := some tr } }) ∧
    (s.aligner.pending ≠ none → Leads m s (counted .overrun s))

theorem pends_of {m : TrigMessage} {tr : Trigger} {s : State} (hc : s.counting = true)
    (h : judgeMessage m s = makePending tr s) : Pends m tr s := by
  refine ⟨fun free => leads_of_judged hc ?_, fun taken => leads_of_discarded hc ?_⟩
  · rw [h, makePending, if_neg (by simp [free])]
    rfl
  · rw [h, makePending, if_pos (Option.isSome_iff_ne_none.mpr taken)]

/-- The mark that a trigger makes (R121). -/
def markOf (tr : Trigger) : Mark := { frame := tr.frame, fine := tr.fine, source := tr.source }

/-- The rows of a trigger made a mark (R121, log entry 35). -/
def Marked (m : TrigMessage) (tr : Trigger) (s : State) : Prop :=
  (16 ≤ s.aligner.marks.length → Leads m s (counted .overrun s)) ∧
    (s.aligner.marks.length < 16 → s.aligner.handOver = none → s.writerPassed tr.frame = true →
      (∀ c, s.aligner.capture = some c → s.insideCapture tr.frame = true →
          Leads m s (sendMark c.number s (markOf tr))) ∧
        (s.insideCapture tr.frame = false → Leads m s (counted .late s))) ∧
    (s.aligner.marks.length < 16 → (s.aligner.handOver ≠ none ∨ s.writerPassed tr.frame = false) →
      Leads m s { s with aligner := { s.aligner with marks := s.aligner.marks ++ [markOf tr] } })

theorem makeMark_full {tr : Trigger} {s : State} (h : 16 ≤ s.aligner.marks.length) :
    makeMark tr s = discardTrigger .overrun s := if_pos h

/-- With a place in the queue, no hand-over, and the frame passed by the writer, a mark is judged at once. -/
theorem makeMark_atOnce {tr : Trigger} {s : State} (h : s.aligner.marks.length < 16)
    (hh : s.aligner.handOver = none) (hw : s.writerPassed tr.frame = true) :
    (∀ c, s.aligner.capture = some c → s.insideCapture tr.frame = true →
        (makeMark tr s).2 = sendMark c.number s (markOf tr)) ∧
      (s.insideCapture tr.frame = false → makeMark tr s = discardTrigger .late s) := by
  have room : ¬ Config.markQueueMax ≤ s.aligner.marks.length := Nat.not_le.mpr h
  unfold makeMark
  dsimp only
  rw [if_neg room, if_pos (by simp [hh, hw])]
  refine ⟨fun c capture inside => ?_, fun outside => ?_⟩
  · rw [inside, capture]
    rfl
  · rw [outside]

theorem makeMark_queued {tr : Trigger} {s : State} (h : s.aligner.marks.length < 16)
    (hq : s.aligner.handOver ≠ none ∨ s.writerPassed tr.frame = false) :
    (makeMark tr s).2 = { s with aligner := { s.aligner with marks := s.aligner.marks ++ [markOf tr] } } := by
  have room : ¬ Config.markQueueMax ≤ s.aligner.marks.length := Nat.not_le.mpr h
  have waits : ¬ (s.aligner.handOver.isNone && s.writerPassed tr.frame) = true := by
    rcases hq with handed | unwritten
    · simp [handed]
    · simp [unwritten]
  unfold makeMark
  dsimp only
  rw [if_neg room, if_neg waits]
  rfl

theorem marked_of {m : TrigMessage} {tr : Trigger} {s : State} (hc : s.counting = true)
    (h : judgeMessage m s = makeMark tr s) : Marked m tr s := by
  refine ⟨fun full => leads_of_discarded hc (h.trans (makeMark_full full)), fun room free passed => ?_,
    fun room waits => leads_of_judged hc (by rw [h, makeMark_queued room waits])⟩
  obtain ⟨inside, outside⟩ := makeMark_atOnce room free passed
  exact ⟨fun c capture within => leads_of_judged hc (by rw [h, inside c capture within]),
    fun beyond => leads_of_discarded hc (h.trans (outside beyond))⟩

/-- The rows of a trigger in or after the range of a record with planned last frame `last` (R114). -/
def Ranged (m : TrigMessage) (tr : Trigger) (s : State) (last : Nat) : Prop :=
  (tr.frame ≤ last → s.aligner.params.markEnabled tr.source = true → Marked m tr s) ∧
    (tr.frame ≤ last → s.aligner.params.markEnabled tr.source = false → Leads m s (counted .ignored s)) ∧
    (last < tr.frame → tr.frame ≤ last + s.aligner.params.holdoff → Leads m s (counted .ignored s)) ∧
    (last + s.aligner.params.holdoff < tr.frame → Pends m tr s)

theorem ranged_of {m : TrigMessage} {tr : Trigger} {s : State} {last : Nat} (hc : s.counting = true)
    (h : judgeMessage m s = judgeRange tr last s) : Ranged m tr s last := by
  unfold judgeRange at h
  refine ⟨fun within enabled => marked_of hc ?_, fun within disabled => leads_of_discarded hc ?_,
    fun after held => leads_of_discarded hc ?_, fun past => pends_of hc ?_⟩
  · rw [h, if_pos within, if_pos enabled]
  · rw [h, if_pos within, if_neg (by simp [disabled])]
  · rw [h, if_neg (by omega), if_pos held]
  · rw [h, if_neg (by omega), if_neg (by omega)]

/-! ## The rows of R114 for a received frame, by the aligner's state -/

section Rows

variable {m : TrigMessage} {tr : Trigger} {s : State}

theorem holdoff_rows (hc : s.counting = true) (h : judgeMessage m s = judgeByState tr s)
    (hs : s.aligner.state = .holdoff)
    (hl : s.aligner.inLastSealed tr.frame = false ∨ s.aligner.params.markEnabled tr.source = false)
    {e : Nat} (he : s.aligner.holdoffEnd = some e) :
    (tr.frame ≤ e → Leads m s (counted .ignored s)) ∧ (e < tr.frame → Pends m tr s) := by
  rw [judgeByState_holdoff hs hl he] at h
  exact ⟨fun held => leads_of_discarded hc (h.trans (if_pos held)),
    fun past => pends_of hc (h.trans (if_neg (Nat.not_le.mpr past)))⟩

theorem capturing_rows (hc : s.counting = true) (h : judgeMessage m s = judgeByState tr s)
    (hs : s.aligner.state = .capturing) {c : CaptureRecord} {l : Nat} (hr : s.aligner.capture = some c)
    (hl : c.last = some l) :
    (tr.frame < c.first → s.aligner.params.markEnabled tr.source = true → Leads m s (counted .late s)) ∧
      (tr.frame < c.first → s.aligner.params.markEnabled tr.source = false → Leads m s (counted .ignored s)) ∧
      (c.first ≤ tr.frame → Ranged m tr s l) := by
  rw [judgeByState_capturing hs hr hl] at h
  refine ⟨fun before enabled => leads_of_discarded hc ?_, fun before disabled => leads_of_discarded hc ?_,
    fun within => ranged_of hc ?_⟩
  · rw [h, if_pos before, if_pos enabled]
  · rw [h, if_pos before, if_neg (by simp [disabled])]
  · rw [h, if_neg (Nat.not_lt.mpr within)]

theorem handedOver_rows (hc : s.counting = true) (h : judgeMessage m s = judgeByState tr s)
    (hs : s.aligner.state = .arming ∨ s.aligner.state = .armed) {o : HandOver} (ho : s.aligner.handOver = some o) :
    (tr.frame < o.frame → Leads m s (counted .overrun s)) ∧ (o.frame ≤ tr.frame → Ranged m tr s o.last) := by
  rw [judgeByState_handedOver hs ho] at h
  exact ⟨fun before => leads_of_discarded hc (h.trans (if_pos before)),
    fun within => ranged_of hc (h.trans (if_neg (Nat.not_lt.mpr within)))⟩

theorem awaiting_rows (hc : s.counting = true) (h : judgeMessage m s = judgeByState tr s)
    (hs : s.aligner.state = .arming ∨ s.aligner.state = .armed) (hn : s.aligner.handOver = none) {x : Nat}
    (hx : s.aligner.armingFrame = some x) :
    (tr.frame < x → Leads m s (counted .stale s)) ∧
      (x ≤ tr.frame → s.aligner.state = .arming → s.aligner.params.early = .ignore →
        Leads m s (counted .early s)) ∧
      (x ≤ tr.frame → (s.aligner.state = .armed ∨ s.aligner.params.early = .accept) →
        Leads m s (handTrigger tr s).2) := by
  rw [judgeByState_awaiting hs hn hx] at h
  refine ⟨fun before => leads_of_discarded hc (h.trans (if_pos before)),
    fun reached arming ignore => leads_of_discarded hc ?_, fun reached taken => leads_of_judged hc ?_⟩
  · rw [h, if_neg (Nat.not_lt.mpr reached), if_pos ⟨arming, ignore⟩]
  · have accepted : ¬ (s.aligner.state = .arming ∧ s.aligner.params.early = .ignore) := by
      rintro ⟨arming, ignore⟩
      rcases taken with armed | accept
      · simp [armed] at arming
      · simp [accept] at ignore
    rw [h, if_neg (Nat.not_lt.mpr reached), if_neg accepted]

end Rows

/-- Settles O18: a message that is stamped is judged by its frame, by the session's mode and by the aligner's state. -/
theorem alignedTriggerIsJudged : Obligations.AlignedTriggerIsJudged := by
  unfold Obligations.AlignedTriggerIsJudged
  intro m s
  refine ⟨fun idle => exec_triggerMessage_idle idle m, ?unstamped, fun hc tr stamped => ?stamped⟩
  case unstamped =>
    rintro hc src fine rfl unstamped
    exact leads_of_discarded hc (judgeMessage_unstamped unstamped)
  case stamped =>
    have judged := judgeMessage_stamped stamped
    refine ⟨fun lost => leads_of_discarded hc (judged.trans (judge_inEpisode lost)), fun kept segmented => ?segmented,
      fun kept continuous => ?continuous⟩
    case segmented =>
      refine ⟨fun ahead => pends_of hc (judged.trans (judge_segmented_ahead kept segmented ahead)),
        fun n newest received => ?_⟩
      have byState := judged.trans (judge_segmented_received kept segmented newest received)
      exact ⟨fun hs sealed enabled => leads_of_discarded hc (byState.trans (judgeByState_late hs sealed enabled)),
        fun notLate => ⟨fun hs => leads_of_discarded hc (byState.trans (judgeByState_disarmed hs notLate)),
          fun hs _ holdoffEnd => holdoff_rows hc byState hs notLate holdoffEnd⟩,
        fun hs _ _ capture last => capturing_rows hc byState hs capture last,
        fun hs => ⟨fun _ handOver => handedOver_rows hc byState hs handOver,
          fun free _ armingFrame => awaiting_rows hc byState hs free armingFrame⟩⟩
    case continuous =>
      refine ⟨fun ignores => leads_of_discarded hc (judged.trans (judge_continuous_ignores kept continuous ignores)),
        fun marking enabled x first => ?_⟩
      have marks := judged.trans (judge_continuous_marks kept continuous marking enabled first)
      exact ⟨fun before => leads_of_discarded hc (marks.trans (if_pos before)),
        fun within => marked_of hc (marks.trans (if_neg (Nat.not_lt.mpr within)))⟩

end Sys2Proof.Proofs
end

section
/-! PROOF. The aligner's requests: ARM, DISARM and FORCE_TRIGGER. -/

namespace Sys2Proof.Proofs

open Sys2Proof.Machine Sys2Proof.Laws

/-! ## The checks that ARM and DISARM share (R118, R119) -/

theorem armStatus_notRunning {s : State} (h : s.session.state ≠ .running) : armStatus s = .busy := if_pos h

theorem armStatus_continuous {s : State} (h : s.session.state = .running) (hm : s.aligner.params.mode = .continuous) :
    armStatus s = .wrongMode := by
  unfold armStatus
  rw [if_neg (not_not_intro h), if_pos hm]

theorem armStatus_segmented {s : State} (h : s.session.state = .running) (hm : s.aligner.params.mode = .segmented) :
    armStatus s = .ok := by
  unfold armStatus
  rw [if_neg (not_not_intro h), if_neg (by simp [hm])]

/-- A request answered with the aligner's payload at once leaves aligner and writer alone. -/
theorem answeredAtOnce_unchanged {s : State} {p : Port} {code : Nat} {r : Passed} (h : Waits s p code r) (st : Status) :
    Replied s (answer r st 0 (alignerPayload s.aligner) (s.without p code)) r st 0 (alignerPayload s.aligner) ∧
      (answer r st 0 (alignerPayload s.aligner) (s.without p code)).aligner = s.aligner ∧
      (answer r st 0 (alignerPayload s.aligner) (s.without p code)).writer = s.writer :=
  ⟨(answer_atOnce h st 0 _).1, answer_aligner .., answer_writer ..⟩

/-! ## ARM (R118) -/

theorem exec_arm {s : State} {p : Port} {r : Passed} (h : Waits s p 0x18 r) :
    exec (.arm p) s = .next (arm r (s.without p 0x18)) := by
  show execArm p s = _
  unfold execArm
  rw [takePassed_of h.oldest]

theorem arm_refused {r : Passed} {s : State} {st : Status} (h : armStatus s = st) (hne : st ≠ .ok) :
    arm r s = answer r st 0 (alignerPayload s.aligner) s := by
  unfold arm
  rw [h]
  split
  · exact absurd rfl hne
  · rfl

theorem arm_notDisarmed {r : Passed} {s : State} (h : armStatus s = .ok) (hs : s.aligner.state ≠ .disarmed) :
    arm r s = answer r .busy 0 (alignerPayload s.aligner) s := by
  unfold arm
  rw [h]
  exact if_neg hs

/-- The aligner is ARMING from `frame`, and the writer has been told to go to PRETRIGGER at `next`, which supersedes every
change told for a later frame. -/
def armedFrom (frame : Option Nat) (next : Nat) (s : State) : State :=
  setAligner (fun a => { a with state := .arming, armingFrame := frame, rejudge := true })
    (tellWriter next .toPretrigger (dropLaterChanges next s))

theorem cap_armedFrom (frame : Option Nat) (next : Nat) (s : State) : Cap s (armedFrom frame next s) := by
  have superseded : Cap s (dropLaterChanges next s) := cap_setWriter rfl
  unfold armedFrom
  exact (superseded.trans (cap_tellWriter _ _ _)).trans (cap_setAligner rfl)

theorem armFrame_received {a : Aligner} {n : Nat} (h : a.newest = some n) :
    a.armFrame = some (n + 1) ∧ a.nextReceived = n + 1 := by
  unfold Aligner.armFrame Aligner.nextReceived
  rw [h]
  exact ⟨rfl, rfl⟩

theorem armFrame_nothingReceived {a : Aligner} (h : a.newest = none) :
    a.armFrame = a.firstFrame ∧ a.nextReceived = a.firstFrame.getD 0 := by
  unfold Aligner.armFrame Aligner.nextReceived
  rw [h]
  exact ⟨rfl, rfl⟩

/-- An aligner is not ARMED while its arming frame has not been received (R113). -/
theorem checkArmed_waits {s : State} (h : ∀ n x, s.aligner.newest = some n → s.aligner.armingFrame = some x → n < x) :
    checkArmed s = s := by
  unfold checkArmed
  split
  · next n x _ newest arming =>
    have := h n x newest arming
    exact if_neg (by omega)
  · rfl

/-- The arming frame of an ARM lies after the newest frame received, so the aligner stays ARMING. -/
theorem enterArming_armFrame (s : State) :
    enterArming s.aligner.armFrame
        (tellWriter s.aligner.nextReceived .toPretrigger (dropLaterChanges s.aligner.nextReceived s)) =
      armedFrom s.aligner.armFrame s.aligner.nextReceived s := by
  refine checkArmed_waits (fun n x newest arming => ?_)
  have after : s.aligner.armFrame = some (n + 1) := (armFrame_received newest).1
  have frame : s.aligner.armFrame = some x := arming
  rw [after] at frame
  cases frame
  exact Nat.lt_succ_self n

theorem arm_accepted {r : Passed} {s : State} (h : armStatus s = .ok) (hs : s.aligner.state = .disarmed) :
    arm r s =
      captureEvent
        (answer r .ok 0 (alignerPayload (settle (armedFrom s.aligner.armFrame s.aligner.nextReceived s)).aligner)
          (settle (armedFrom s.aligner.armFrame s.aligner.nextReceived s))) := by
  unfold arm
  rw [h, ← enterArming_armFrame]
  exact if_pos hs

/-- Settles O50: the refusals in the order of the checks, and an accepted ARM, whose arming frame no frame has reached. -/
theorem alignerIsArmed : Obligations.AlignerIsArmed := by
  unfold Obligations.AlignerIsArmed
  intro p s r h
  have run := exec_arm h
  refine ⟨fun hs => ?notRunning, fun hs hm => ?continuous, fun hs hm ha => ?notDisarmed,
    fun hs hm ha frame next received nothing => ?armed⟩
  case notRunning =>
    rw [arm_refused (armStatus_notRunning (s := s.without p 0x18) hs) (by decide)] at run
    exact ⟨_, run, answeredAtOnce_unchanged h _⟩
  case continuous =>
    rw [arm_refused (armStatus_continuous (s := s.without p 0x18) hs hm) (by decide)] at run
    exact ⟨_, run, answeredAtOnce_unchanged h _⟩
  case notDisarmed =>
    rw [arm_notDisarmed (armStatus_segmented (s := s.without p 0x18) hs hm) ha] at run
    exact ⟨_, run, answeredAtOnce_unchanged h _⟩
  case armed =>
    have told : frame = s.aligner.armFrame ∧ next = s.aligner.nextReceived := by
      cases newest : s.aligner.newest with
      | none =>
        rw [(armFrame_nothingReceived newest).1, (armFrame_nothingReceived newest).2]
        exact nothing newest
      | some n =>
        rw [(armFrame_received newest).1, (armFrame_received newest).2]
        exact received n newest
    obtain ⟨rfl, rfl⟩ := told
    rw [arm_accepted (armStatus_segmented (s := s.without p 0x18) hs hm) ha] at run
    have settled := (cap_armedFrom s.aligner.armFrame s.aligner.nextReceived (s.without p 0x18)).trans (cap_settle _)
    exact ⟨_, run, followedByCapture _, answered_captureEvent h settled _ _ _, cells_captureEvent settled _ _ _⟩

/-! ## DISARM (R119) -/

theorem exec_disarm {s : State} {p : Port} {r : Passed} (h : Waits s p 0x19 r) :
    exec (.disarm p) s = .next (disarm r (s.without p 0x19)) := by
  show execDisarm p s = _
  unfold execDisarm
  rw [takePassed_of h.oldest]

theorem disarm_refused {r : Passed} {s : State} {st : Status} (h : armStatus s = st) (hne : st ≠ .ok) :
    disarm r s = answer r st 0 (alignerPayload s.aligner) s := by
  unfold disarm
  rw [h]
  split
  · exact absurd rfl hne
  · rfl

/-- The pending trigger gone and the aligner told, before they settle. -/
def disarmed (s : State) : State := disarmEffect (clearPending s)

theorem cap_disarmed (s : State) : Cap s (disarmed s) := (cap_clearPending s).trans (cap_disarmEffect _)

theorem bit_zero (c : Prop) [Decidable c] : bit (decide c) 0 = if c then 1 else 0 := by
  unfold bit
  simp only [decide_eq_true_eq, pow_zero]

theorem disarm_accepted {r : Passed} {s : State} (h : armStatus s = .ok) :
    disarm r s =
      captureEvent
        (answer r .ok 0
          (⟨1, 1, if s.aligner.state = .capturing then 1 else 0⟩ :: alignerPayload (settle (disarmed s)).aligner)
          (settle (disarmed s))) := by
  unfold disarm
  rw [h, ← bit_zero]
  rfl

theorem clearPending_aligner (s : State) : (clearPending s).aligner = { s.aligner with pending := none } := by
  rw [clearPending_eq]

/-- The aligner DISARMED, with no arming frame and no holdoff (R119, log entry 26). -/
def restingAligner (a : Aligner) : Aligner :=
  { a with
    state := .disarmed, armingFrame := none, holdoffEnd := none, holdoffCount := 0, disarmAfterSeal := false
    rejudge := true }

theorem disarmEffect_capturing {s : State} (h : s.aligner.state = .capturing) :
    (disarmEffect s).aligner = { s.aligner with disarmAfterSeal := true } := by
  unfold disarmEffect
  rw [h]
  rfl

theorem disarmEffect_holdoff {s : State} (h : s.aligner.state = .holdoff) :
    (disarmEffect s).aligner = restingAligner s.aligner := by
  unfold disarmEffect
  rw [h]
  rfl

/-- The hand-over and the marks leave with the arming. -/
theorem disarmEffect_arming {s : State} (h : s.aligner.state = .arming ∨ s.aligner.state = .armed) :
    (disarmEffect s).aligner = restingAligner { s.aligner with handOver := none, marks := [] } := by
  have cleared : (leaveStarved (clearMarks .ignored (clearHandOver .ignored s))).aligner =
      { s.aligner with handOver := none, marks := [] } := by
    obtain ⟨-, aligner, -⟩ := leaveStarved_fields (clearMarks .ignored (clearHandOver .ignored s))
    rw [aligner, clearMarks_eq, clearHandOver_eq]
  unfold disarmEffect
  rcases h with h | h <;> rw [h] <;> exact congrArg restingAligner cleared

theorem disarmEffect_idle {s : State} (h : s.aligner.state = .disarmed ∨ s.aligner.state = .marking) :
    disarmEffect s = s := by
  unfold disarmEffect
  rcases h with h | h <;> rw [h]

/-- No DISARM brings a pending trigger back. -/
theorem disarmEffect_pending (s : State) : (disarmEffect s).aligner.pending = s.aligner.pending := by
  cases h : s.aligner.state with
  | disarmed => rw [disarmEffect_idle (.inl h)]
  | arming => rw [disarmEffect_arming (.inl h)]; rfl
  | armed => rw [disarmEffect_arming (.inr h)]; rfl
  | capturing => rw [disarmEffect_capturing h]
  | holdoff => rw [disarmEffect_holdoff h]; rfl
  | marking => rw [disarmEffect_idle (.inr h)]

/-- What an accepted DISARM makes of the aligner. -/
structure AlignerTold (a b : Aligner) : Prop where
  pending : b.pending = none
  capturing : a.state = .capturing → b.state = .capturing ∧ b.disarmAfterSeal = true
  resting : a.state = .holdoff ∨ a.state = .arming ∨ a.state = .armed → b.state = .disarmed
  emptied : a.state = .arming ∨ a.state = .armed → b.handOver = none ∧ b.marks = []

theorem disarmed_aligner (s : State) : AlignerTold s.aligner (disarmed s).aligner := by
  have cleared := clearPending_aligner s
  unfold disarmed
  generalize clearPending s = x at cleared ⊢
  have same : x.aligner.state = s.aligner.state := by rw [cleared]
  constructor
  case pending => rw [disarmEffect_pending, cleared]
  case capturing =>
    intro h
    rw [disarmEffect_capturing (same.trans h)]
    exact ⟨same.trans h, rfl⟩
  case resting =>
    rintro (h | h)
    · rw [disarmEffect_holdoff (same.trans h)]
      rfl
    · rw [disarmEffect_arming (same ▸ h)]
      rfl
  case emptied =>
    intro h
    rw [disarmEffect_arming (same ▸ h)]
    exact ⟨rfl, rfl⟩

/-- Settles O51: the refusals, and what an accepted DISARM tells the aligner in each of its states. -/
theorem alignerIsDisarmed : Obligations.AlignerIsDisarmed := by
  unfold Obligations.AlignerIsDisarmed
  intro p s r h
  have run := exec_disarm h
  refine ⟨fun hs => ?notRunning, fun hs hm => ?continuous, fun hs hm => ?told⟩
  case notRunning =>
    rw [disarm_refused (armStatus_notRunning (s := s.without p 0x19) hs) (by decide)] at run
    exact ⟨_, run, answeredAtOnce_unchanged h _⟩
  case continuous =>
    rw [disarm_refused (armStatus_continuous (s := s.without p 0x19) hs hm) (by decide)] at run
    exact ⟨_, run, answeredAtOnce_unchanged h _⟩
  case told =>
    rw [disarm_accepted (armStatus_segmented (s := s.without p 0x19) hs hm)] at run
    have settled := (cap_disarmed (s.without p 0x19)).trans (cap_settle _)
    obtain ⟨pending, capturing, resting, emptied⟩ := disarmed_aligner (s.without p 0x19)
    exact ⟨disarmed (s.without p 0x19), _, run, followedByCapture _, answered_captureEvent h settled _ _ _,
      pending, capturing, resting, emptied, cells_captureEvent settled _ _ _⟩

/-! ## FORCE_TRIGGER (R120) -/

theorem exec_forceTrigger {s : State} {p : Port} {r : Passed} (h : Waits s p 0x1A r) :
    exec (.forceTrigger p) s = .next (forceTrigger r (s.without p 0x1A)) := by
  show execForceTrigger p s = _
  unfold execForceTrigger
  rw [takePassed_of h.oldest]

/-- The answer of a FORCE_TRIGGER stamped `n` and judged with outcome `o`, and what follows it. -/
def forcedAnswer (r : Passed) (n : Nat) (o : TrigOutcome) (v : State) : State :=
  captureEvent (answer r .ok 0 (⟨2, 1, o.code⟩ :: ⟨24, 8, n⟩ :: alignerPayload (settle v).aligner) (settle v))

/-- A trigger forced at frame `n` (R120). -/
def forcedAt (n : Nat) : Trigger := { frame := n, fine := 0, source := .main, stamp := .raw }

/-- A FORCE_TRIGGER has been counted. -/
def forcedCounted (s : State) : State := countTrigger (fun c => { c with forced := sat c.forced 1 }) s

theorem forceTrigger_noSession {r : Passed} {s : State} {n : Nat} (hn : s.aligner.newest = some n)
    (h : s.counting = false) : forceTrigger r s = forcedAnswer r n .noSession s := by
  have stamped : indexOrFree s.aligner.newest s = (n, s) := by rw [hn]; rfl
  unfold forceTrigger
  rw [stamped]
  simp only [h, Bool.false_eq_true, if_false]
  rfl

theorem judgeRaw_forced {s : State} {n : Nat} (hn : s.aligner.newest = some n) :
    judgeRaw .main 0 0 s = judge (forcedAt n) s := by
  unfold judgeRaw
  rw [hn]
  exact if_neg (Nat.not_lt_zero n)

theorem forceTrigger_judged {r : Passed} {s : State} {n : Nat} (hn : s.aligner.newest = some n)
    (h : s.counting = true) :
    forceTrigger r s =
      forcedAnswer r n (judge (forcedAt n) (forcedCounted s)).1 (judge (forcedAt n) (forcedCounted s)).2 := by
  have stamped : indexOrFree s.aligner.newest s = (n, s) := by rw [hn]; rfl
  have kept : (forcedCounted s).aligner.newest = some n := (congrArg Aligner.newest (countTrigger_aligner _ s)).trans hn
  unfold forceTrigger
  rw [stamped]
  simp only [h, if_true]
  rw [← judgeRaw_forced kept]
  rfl

theorem cap_forced {s t : State} (h : Cap s t) : t.counters.trigger.forced = s.counters.trigger.forced :=
  (congrArg (fun x : State => x.counters.trigger.forced) h.view :)

theorem forcedCounted_forced {s : State} (h : s.counting = true) :
    (forcedCounted s).counters.trigger.forced = sat s.counters.trigger.forced 1 := by
  unfold forcedCounted
  rw [countTrigger_counters, if_pos h]

theorem forcedAnswer_forced (r : Passed) (n : Nat) (o : TrigOutcome) (v : State) :
    (forcedAnswer r n o v).counters.trigger.forced = v.counters.trigger.forced := by
  rw [forcedAnswer, cap_forced (cap_captureEvent _), answer_counters, cap_forced (cap_settle v)]

/-- The answer stands at the request's port, whatever the judging before it led to. -/
theorem forcedAnswer_answered {s v : State} {p : Port} {r : Passed} (h : Waits s p 0x1A r)
    (k : Sound (s.without p 0x1A) v) (n : Nat) (o : TrigOutcome) :
    Answered s (forcedAnswer r n o v) r .ok 0
      (⟨2, 1, o.code⟩ :: ⟨24, 8, n⟩ :: alignerPayload (settle v).aligner) := by
  have queue : ∀ q, QueueKept (s.port q) ((settle v).port q) := fun q =>
    queueKept_trans (queueKept_without s p 0x1A q) ((k.trans (Cap.sound (cap_settle v))).queue q)
  exact answered_cap (answered_after queue (replied_answered (replied_answer h.live _ _ _ (fun _ => rfl))))
    (cap_captureEvent _)

/-- Settles O52: with no session nothing is judged; in one the trigger is counted as forced and judged at the newest frame. -/
theorem triggerIsForced : Obligations.TriggerIsForced := by
  unfold Obligations.TriggerIsForced
  intro p s r n h hn
  have run := exec_forceTrigger h
  refine ⟨fun hc => ?noSession, fun hc => ?judged⟩
  case noSession =>
    rw [forceTrigger_noSession (s := s.without p 0x1A) hn hc] at run
    exact ⟨s.without p 0x1A, _, run, followedByCapture _, forcedAnswer_answered h (sound_refl _) n .noSession, rfl,
      forcedAnswer_forced r n .noSession _⟩
  case judged =>
    rw [forceTrigger_judged (s := s.without p 0x1A) hn hc] at run
    have judged := cap_judge (forcedAt n) (forcedCounted (s.without p 0x1A))
    have kept : Sound (s.without p 0x1A) (judge (forcedAt n) (forcedCounted (s.without p 0x1A))).2 :=
      (sound_countTrigger _ _).trans judged.sound
    have forced := (cap_forced judged).trans (forcedCounted_forced (s := s.without p 0x1A) hc)
    exact ⟨_, _, _, run, followedByCapture _, forcedAnswer_answered h kept n _, rfl,
      (forcedAnswer_forced r n _ _).trans forced, (sound_execForceTrigger (p := p) (s := s) run).cells⟩

end Sys2Proof.Proofs
end

section
/-! PROOF. The intake of one frame: the value of a slot by its source and coding, and a frame judged against the room of the
intake buffer. -/

namespace Sys2Proof.Proofs

open Sys2Proof.Machine Sys2Proof.Laws

/-! ## Slot values (R129) -/

theorem sampleOf_val (samples : Vector Sample 8) (n : Fin 8) : sampleOf samples n.val = samples.get n := by
  unfold sampleOf Vector.get
  rw [List.getD_eq_getElem _ _ (by simp)]
  simp

theorem pairDifference_val (samples : Vector Sample 8) (k : Fin 4) :
    pairDifference samples k.val =
      ((samples.get ⟨2 * k.val, by omega⟩).toNat : Int) - ((samples.get ⟨2 * k.val + 1, by omega⟩).toNat : Int) := by
  unfold pairDifference
  rw [← sampleOf_val, ← sampleOf_val]

theorem saturate_eq (d : Int) : saturate d = if 32767 < d then 32767 else if d < -32768 then -32768 else d := by
  unfold saturate; split_ifs <;> omega

theorem saturate_bounds (d : Int) : -32768 ≤ saturate d ∧ saturate d ≤ 32767 := by unfold saturate; omega

/-- Offset binary to two's complement: the most significant bit turns. -/
theorem toInt_sub_offset (x : Sample) : (x - 0x8000 : Sample).toInt = (x.toNat : Int) - 32768 := by
  have bound := x.isLt
  have offset : (0x8000 : Sample).toNat = 32768 := rfl
  rw [BitVec.toInt_eq_toNat_cond, BitVec.toNat_sub, offset]
  split <;> omega

theorem toInt_ofInt_saturate (d : Int) : (BitVec.ofInt 16 (saturate d)).toInt = saturate d := by
  have h := saturate_bounds d
  exact BitVec.toInt_ofInt_eq_self (by decide) (by norm_num; exact h.1) (by norm_num; omega)

theorem toNat_ofInt_saturate (d : Int) : ((BitVec.ofInt 16 (saturate d + 32768)).toNat : Int) = saturate d + 32768 := by
  have h := saturate_bounds d
  rw [BitVec.toNat_ofInt]
  norm_num
  omega

/-- Settles O15: each source and coding by the value that its row of R129 gives. -/
theorem slotValuesFollowCoding : Obligations.SlotValuesFollowCoding := by
  unfold Obligations.SlotValuesFollowCoding
  intro samples n k a b d
  have difference : pairDifference samples k.val = d := pairDifference_val samples k
  refine ⟨sampleOf_val samples n, ?signedChannel, ?signedPair, ?unsignedPair⟩
  case signedChannel =>
    show (sampleOf samples n.val - 0x8000).toInt = _
    rw [toInt_sub_offset, sampleOf_val]
  case signedPair =>
    show (BitVec.ofInt 16 (saturate (pairDifference samples k.val))).toInt = _
    rw [toInt_ofInt_saturate, difference, saturate_eq]
  case unsignedPair =>
    show ((BitVec.ofInt 16 (saturate (pairDifference samples k.val) + 32768)).toNat : Int) = _
    rw [toNat_ofInt_saturate, difference, saturate_eq]

/-! ## The intake buffer (R130) -/

theorem frameCount_append (l m : List Item) : frameCount (l ++ m) = frameCount l + frameCount m := by
  induction l with
  | nil => simp [frameCount]
  | cons i l ih =>
    cases i with
    | frame _ _ => simp [frameCount, ih]; omega
    | cut _ => simp [frameCount, ih]

theorem hasRoom_iff {k : Intake} :
    k.hasRoom = true ↔ (frameCount k.items + 1) * k.frameSize ≤ 1048576 ∧ cutCount k.items < 16 := by
  unfold Intake.hasRoom
  rw [Bool.and_eq_true, decide_eq_true_iff, decide_eq_true_iff]
  rfl

/-- The OPEN cut stands at the newest end. -/
theorem items_openCut {k : Intake} {c : Cut} (h : k.openCut = some c) : k.items = k.items.dropLast ++ [.cut c] := by
  unfold Intake.openCut at h
  split at h
  · next x hx =>
    split at h
    · cases h
    · cases h
      exact (List.dropLast_append_getLast? _ hx).symm
  · cases h

/-- A cut put in the place of the OPEN cut leaves the frames held. -/
theorem frameCount_setLast {k : Intake} {c : Cut} (h : k.openCut = some c) (d : Cut) :
    frameCount (k.setLast (.cut d)).items = frameCount k.items := by
  conv_rhs => rw [items_openCut h]
  simp [Intake.setLast, frameCount_append, frameCount]

/-! ## A frame accepted (R131) -/

theorem judgeFrame_joins {s : State} (hr : s.intake.hasRoom = true) (hc : s.intake.openCut = none) (i : Nat)
    (bytes : List Byte) :
    judgeFrame s (i, bytes) = { s with intake := { s.intake with items := s.intake.items ++ [.frame i bytes] } } := by
  unfold judgeFrame
  rw [if_pos hr]
  simp [setIntake, hc, Intake.join]

theorem judgeFrame_closes {s : State} {c : Cut} (hr : s.intake.hasRoom = true) (hc : s.intake.openCut = some c) (i : Nat)
    (bytes : List Byte) :
    judgeFrame s (i, bytes) =
      { s with
        intake :=
          { s.intake with items := s.intake.items.dropLast ++ [.cut { c with closed := true }] ++ [.frame i bytes] } } := by
  unfold judgeFrame
  rw [if_pos hr]
  simp [setIntake, hc, Intake.join, Intake.setLast]

theorem frameCount_accepted {s : State} (hr : s.intake.hasRoom = true) (i : Nat) (bytes : List Byte) :
    frameCount (judgeFrame s (i, bytes)).intake.items = frameCount s.intake.items + 1 ∧
      (judgeFrame s (i, bytes)).intake.frameSize = s.intake.frameSize := by
  cases hc : s.intake.openCut with
  | none => rw [judgeFrame_joins hr hc]; simp [frameCount_append, frameCount]
  | some c =>
    rw [judgeFrame_closes hr hc]
    have kept := frameCount_setLast hc { c with closed := true }
    unfold Intake.setLast at kept
    refine ⟨?_, rfl⟩
    show frameCount (_ ++ [Item.frame i bytes]) = _
    rw [frameCount_append, kept]
    rfl

/-! ## A frame dropped (R131, R99) -/

theorem loseFrames_joinsCut {s : State} {c : Cut} (hc : s.intake.openCut = some c) (first n : Nat) (cause : CutCause) :
    (loseFrames first n cause s).intake = s.intake.setLast (.cut { c with count := c.count + n }) := by
  unfold loseFrames; rw [hc]; rfl

theorem loseFrames_placesCut {s : State} (hc : s.intake.openCut = none) (first n : Nat) (cause : CutCause) :
    (loseFrames first n cause s).intake =
      s.intake.join (.cut { first := first, count := n, cause := cause, closed := false }) := by
  unfold loseFrames; rw [hc]; simp [setIntake]

theorem loseFrames_rest (first n : Nat) (cause : CutCause) (s : State) :
    (loseFrames first n cause s).session = s.session ∧ (loseFrames first n cause s).writer = s.writer ∧
      (loseFrames first n cause s).intake.frameSize = s.intake.frameSize := by
  unfold loseFrames
  split <;> simp [setIntake, Intake.setLast, Intake.join]

theorem frameCount_loseFrames (first n : Nat) (cause : CutCause) (s : State) :
    frameCount (loseFrames first n cause s).intake.items = frameCount s.intake.items := by
  cases hc : s.intake.openCut with
  | none => rw [loseFrames_placesCut hc]; simp [Intake.join, frameCount_append, frameCount]
  | some c => rw [loseFrames_joinsCut hc]; exact frameCount_setLast hc _

theorem reportDrops_intake (n : Nat) (s : State) : (reportDrops n s).intake = s.intake := by
  unfold reportDrops; split <;> rfl

theorem reportDrops_dropped (n : Nat) (s : State) :
    (reportDrops n s).session.totals.dropped = sat s.session.totals.dropped n := by
  unfold reportDrops; split <;> rfl

theorem reportDrops_starved {s : State} (h : s.writer.state = .starved) (n : Nat) :
    (reportDrops n s).writer.episodeDrops = s.writer.episodeDrops + n := by
  unfold reportDrops; rw [if_pos h]; rfl

/-- What a dropped frame leaves: the intake with its frame lost, the total dropped, and a STARVED writer's episode drops. -/
structure FrameDropped (s t : State) (i : Nat) : Prop where
  intake : t.intake = (loseFrames i 1 s.writer.dropCause s).intake
  dropped : t.session.totals.dropped = sat s.session.totals.dropped 1
  starved : s.writer.state = .starved → t.writer.episodeDrops = s.writer.episodeDrops + 1

theorem frameDropped_judgeFrame {s : State} (hr : ¬ s.intake.hasRoom = true) (i : Nat) (bytes : List Byte) :
    FrameDropped s (judgeFrame s (i, bytes)) i := by
  obtain ⟨session, writer, -⟩ := loseFrames_rest i 1 s.writer.dropCause s
  unfold judgeFrame
  rw [if_neg hr]
  refine ⟨?_, ?_, fun hs => ?_⟩
  · rw [reportDrops_intake, countIntake_intake]
  · rw [reportDrops_dropped, countIntake_session, session]
  · rw [reportDrops_starved (by rw [countIntake_writer, writer]; exact hs), countIntake_writer, writer]

theorem FrameDropped.held {s t : State} {i : Nat} (h : FrameDropped s t i) :
    frameCount t.intake.items = frameCount s.intake.items ∧ t.intake.frameSize = s.intake.frameSize := by
  rw [h.intake]
  exact ⟨frameCount_loseFrames _ _ _ s, (loseFrames_rest _ _ _ s).2.2⟩

/-- The frames held never come to exceed the frame storage (R131). -/
theorem storage_judgeFrame {s : State} (h : frameCount s.intake.items * s.intake.frameSize ≤ 1048576) (i : Nat)
    (bytes : List Byte) :
    frameCount (judgeFrame s (i, bytes)).intake.items * (judgeFrame s (i, bytes)).intake.frameSize ≤ 1048576 := by
  by_cases hr : s.intake.hasRoom = true
  · obtain ⟨frames, size⟩ := frameCount_accepted hr i bytes
    rw [frames, size]
    exact (hasRoom_iff.mp hr).1
  · obtain ⟨frames, size⟩ := (frameDropped_judgeFrame hr i bytes).held
    rw [frames, size]
    exact h

/-- Settles O16: a frame with room joins the newest end; one without is dropped into the OPEN cut or into a new one. -/
theorem framesAreAcceptedOrDropped : Obligations.FramesAreAcceptedOrDropped := by
  unfold Obligations.FramesAreAcceptedOrDropped
  intro s i bytes room t
  have drops : ¬ room → FrameDropped s t i := fun h => frameDropped_judgeFrame (fun hr => h (hasRoom_iff.mp hr)) i bytes
  refine ⟨fun h hc => judgeFrame_joins (hasRoom_iff.mpr h) hc i bytes,
    fun h c hc => judgeFrame_closes (hasRoom_iff.mpr h) hc i bytes, fun h => (drops h).dropped,
    fun h c hc => ?joinsCut, fun h hc => ?placesCut, fun h => (drops h).starved, fun h => storage_judgeFrame h i bytes⟩
  case joinsCut => rw [(drops h).intake, loseFrames_joinsCut hc]; rfl
  case placesCut => rw [(drops h).intake, loseFrames_placesCut hc]; rfl

end Sys2Proof.Proofs
end

section
/-! PROOF. LINK_DOWN and LINK_UP: the changes of the digitizer link. -/

namespace Sys2Proof.Proofs

open Sys2Proof.Machine Sys2Proof.Laws

/-! ## A change that is logged (R126, R183) -/

/-- `t` is `v` with an INTAKE fault of kind `k` and detail `d` logged, `v` having the ports and the fault records of `s`. -/
structure IntakeLogged (s v t : State) (k : FaultKind) (d : Nat) : Prop where
  fault : FaultReported s t .intake k d
  ports : ∀ p, PortKept (s.port p) (t.port p)
  apart : t.apartFromNotices = v.apartFromNotices

theorem intakeLogged_logFault {s v : State} (hf : v.faults = s.faults) (hp : ∀ p, v.port p = s.port p) (k : FaultKind)
    (d : Nat) : IntakeLogged s v (logFault .intake k d v) k d := by
  have told := told_logFault .intake k d v
  exact ⟨faultReported_congr (faultReported_logFault .intake k d v) hf.symm rfl, fun p => hp p ▸ told.ports p, told.view⟩

/-! ## DOWN (R126, R135) -/

/-- The link of `u` DOWN, with no group in transfer, before it is counted. -/
def linkLost (u : State) : State := { u with intake := { u.intake with linkUp := false, inTransfer := .nothing } }

/-- The link of `u` DOWN, and counted. -/
def linkLostCounted (u : State) : State := countIntake (fun c => { c with linkDown := sat c.linkDown 1 }) (linkLost u)

theorem exec_linkDown_up {s : State} (h : s.intake.linkUp = true) :
    exec .linkDown s =
      .next (logFault .intake .linkDown (s.intake.expected.getD 0) (linkLostCounted (forgetFirstFrame s))) := by
  show execLinkDown s = _
  unfold execLinkDown
  rw [if_pos h]
  rfl

theorem exec_linkDown_down {s : State} (h : s.intake.linkUp = false) : exec .linkDown s = .next s := by
  show execLinkDown s = _
  unfold execLinkDown
  rw [if_neg (by simp [h])]

theorem forgetFirstFrame_whole {s : State} (h : ∀ m, s.intake.inTransfer ≠ .partialGroup m) : forgetFirstFrame s = s := by
  unfold forgetFirstFrame
  split
  · next m hm => exact absurd hm (h m)
  · rfl

/-- The first frame that START fixed from the group in transfer, unfixed for intake, writer and aligner. -/
def firstFrameForgotten (s : State) : State :=
  { s with
    intake := { s.intake with firstFrame := none }
    writer := { s.writer with nextFrame := none }
    aligner := { s.aligner with firstFrame := none, armingFrame := none } }

theorem forgetFirstFrame_partial {s : State} {m : Nat} (h : s.intake.inTransfer = .partialGroup m) :
    forgetFirstFrame s = firstFrameForgotten s := by
  unfold forgetFirstFrame; rw [h]; rfl

theorem firstFrameForgotten_port (s : State) (p : Port) : (firstFrameForgotten s).port p = s.port p := by
  cases p <;> rfl

theorem intakeLogged_linkLost {s u : State} (hf : u.faults = s.faults) (hp : ∀ p, u.port p = s.port p) (d : Nat) :
    IntakeLogged s (linkLostCounted u) (logFault .intake .linkDown d (linkLostCounted u)) .linkDown d := by
  refine intakeLogged_logFault ?_ (fun p => ?_) .linkDown d
  · unfold linkLostCounted; rw [countIntake_faults]; exact hf
  · unfold linkLostCounted; rw [countIntake_port, ← hp p]; cases p <;> rfl

/-! ## UP (R126) -/

theorem exec_linkUp_first {s : State} (h : s.intake.linkUp = false) (hs : s.intake.linkSeen = false) :
    exec .linkUp s = .next { s with intake := { s.intake with linkUp := true, linkSeen := true } } := by
  show execLinkUp s = _
  unfold execLinkUp
  simp [h, hs, setIntake]

/-- The link of `s` UP, and counted. -/
def linkBackCounted (s : State) : State :=
  countIntake (fun c => { c with linkUp := sat c.linkUp 1 }) { s with intake := { s.intake with linkUp := true } }

theorem exec_linkUp_again {s : State} (h : s.intake.linkUp = false) (hs : s.intake.linkSeen = true) :
    exec .linkUp s = .next (logFault .intake .linkUp 0 (linkBackCounted s)) := by
  show execLinkUp s = _
  unfold execLinkUp linkBackCounted
  simp [h, hs, setIntake]

theorem exec_linkUp_up {s : State} (h : s.intake.linkUp = true) : exec .linkUp s = .next s := by
  show execLinkUp s = _
  unfold execLinkUp
  rw [if_pos h]

theorem intakeLogged_linkBack (s : State) :
    IntakeLogged s (linkBackCounted s) (logFault .intake .linkUp 0 (linkBackCounted s)) .linkUp 0 := by
  refine intakeLogged_logFault ?_ (fun p => ?_) .linkUp 0
  · unfold linkBackCounted; rw [countIntake_faults]
  · unfold linkBackCounted; rw [countIntake_port]; cases p <;> rfl

/-- Settles O17: a change of the link is counted and logged, but the first UP; a change to the state it has does nothing. -/
theorem linkChangesAreLogged : Obligations.LinkChangesAreLogged := by
  unfold Obligations.LinkChangesAreLogged
  intro s down
  refine ⟨fun h hw => ?whole, fun h m hm => ?inTransfer, exec_linkUp_first, fun h hs => ?again, exec_linkDown_down,
    exec_linkUp_up⟩
  case whole =>
    have logged := intakeLogged_linkLost (s := s) rfl (fun _ => rfl) (s.intake.expected.getD 0)
    exact ⟨_, by rw [exec_linkDown_up h, forgetFirstFrame_whole hw], logged.fault, logged.ports, logged.apart⟩
  case inTransfer =>
    have logged := intakeLogged_linkLost (s := s) (u := firstFrameForgotten s) rfl (firstFrameForgotten_port s)
      (s.intake.expected.getD 0)
    exact ⟨_, by rw [exec_linkDown_up h, forgetFirstFrame_partial hm], logged.fault, logged.ports, logged.apart⟩
  case again =>
    have logged := intakeLogged_linkBack s
    exact ⟨_, exec_linkUp_again h hs, logged.fault, logged.ports, logged.apart⟩

end Sys2Proof.Proofs
end

section
/-! PROOF. FRAME_GROUP: the groups that are taken, and those that are not. -/

namespace Sys2Proof.Proofs

open Sys2Proof.Machine Sys2Proof.Laws

/-! ## What the taking of a group leaves alone -/

/-- What a frame group leaves alone. -/
abbrev Grp := Rel State.apartFromIntake

theorem grp_of_cap {s t : State} (h : Cap s t) : Grp s t :=
  h.mono (fun e => by simp only [State.apartFromIntake, e])

/-- Without what the judging and the losing of frames change: the items, the total dropped, the drop counts of the intake and
the writer's episode drops. -/
def apartFromDrops (s : State) : State :=
  { s with
    intake := { s.intake with items := [] }
    writer := { s.writer with episodeDrops := 0 }
    session := { s.session with totals := { s.session.totals with dropped := 0 } }
    counters :=
      { s.counters with intake := { s.counters.intake with dropsFull := 0, dropsIndex := 0, episodes := 0 } } }

/-- What the judging and the losing of frames leave alone. -/
abbrev Drops := Rel apartFromDrops

theorem apartFromIntake_of_drops (s : State) : s.apartFromIntake = (apartFromDrops s).apartFromIntake := rfl

theorem grp_of_drops {s t : State} (h : Drops s t) : Grp s t :=
  h.mono (fun e => by rw [apartFromIntake_of_drops t, e, ← apartFromIntake_of_drops])

theorem grp_countIntake (f : IntakeCounters → IntakeCounters) (s : State) : Grp s (countIntake f s) := by
  unfold countIntake
  split
  · exact Rel.of rfl rfl rfl rfl rfl
  · exact Rel.refl s

theorem grp_addTotals (f : Totals → Totals) (s : State) : Grp s (addTotals f s) := Rel.of rfl rfl rfl rfl rfl

theorem grp_setIntake (f : Intake → Intake) (s : State) : Grp s (setIntake f s) := Rel.of rfl rfl rfl rfl rfl

/-! ## Frames judged and lost (R131, R132) -/

theorem drops_setIntake {f : Intake → Intake} {s : State}
    (h : ({ f s.intake with items := [] } : Intake) = { s.intake with items := [] }) : Drops s (setIntake f s) := by
  refine Rel.of ?_ rfl rfl rfl rfl
  simp only [apartFromDrops, setIntake, h]

theorem drops_countIntake {f : IntakeCounters → IntakeCounters} {s : State}
    (h : ({ f s.counters.intake with dropsFull := 0, dropsIndex := 0, episodes := 0 } : IntakeCounters) =
      { s.counters.intake with dropsFull := 0, dropsIndex := 0, episodes := 0 }) : Drops s (countIntake f s) := by
  unfold countIntake
  split
  · refine Rel.of ?_ rfl rfl rfl rfl
    simp only [apartFromDrops, h]
  · exact Rel.refl s

theorem drops_loseFrames (first n : Nat) (cause : CutCause) (s : State) : Drops s (loseFrames first n cause s) := by
  unfold loseFrames
  split
  · exact drops_setIntake rfl
  · exact Rel.trans (drops_setIntake (by rfl)) (drops_countIntake (by rfl))

theorem drops_addDropped (n : Nat) (s : State) : Drops s (addTotals (fun t => { t with dropped := sat t.dropped n }) s) :=
  Rel.of rfl rfl rfl rfl rfl

theorem drops_addEpisodeDrops (n : Nat) (s : State) :
    Drops s (setWriter (fun w => { w with episodeDrops := w.episodeDrops + n }) s) := Rel.of rfl rfl rfl rfl rfl

theorem drops_reportDrops (n : Nat) (s : State) : Drops s (reportDrops n s) :=
  Rel.trans (Rel.ite (drops_addEpisodeDrops n s) (Rel.refl s)) (drops_addDropped n _)

theorem drops_judgeFrame (s : State) (f : Nat × List Byte) : Drops s (judgeFrame s f) := by
  unfold judgeFrame
  refine Rel.ite (drops_setIntake ?accepted) ?dropped
  case accepted => cases s.intake.openCut <;> rfl
  case dropped =>
    exact Rel.trans (Rel.trans (drops_loseFrames _ _ _ s) (drops_countIntake (by rfl))) (drops_reportDrops 1 _)

/-! ## The intake's reports to the aligner and the writer (R93, R112, R115) -/

theorem cap_alignerMissing (first next : Nat) (s : State) : Cap s (alignerMissing first next s) := by
  unfold alignerMissing
  exact Rel.ite (cap_setAligner rfl) (Rel.refl s)

theorem cap_alignerGroup (newest : Nat) (s : State) : Cap s (alignerGroup newest s) :=
  Rel.trans (Rel.trans (cap_setAligner rfl) (cap_checkArmed _)) (cap_checkHoldoff _)

theorem grp_fixFirstFrame (frame : Nat) (s : State) : Grp s (fixFirstFrame frame s) := by
  unfold fixFirstFrame
  split
  · exact Rel.refl s
  · exact Rel.trans (grp_setIntake _ s) (grp_of_cap (Rel.trans (cap_setWriter rfl) (cap_setAligner rfl)))

/-! ## What shows the fate of a group -/

/-- The fields that show what became of a frame group: indices, totals, counts, slot setup and capture memory. -/
structure GroupFacts where
  expected : Option Nat
  newest : Option Nat
  firstFrame : Option Nat
  setup : List SlotDesc
  copied : Nat
  received : Nat
  missing : Nat
  written : Nat
  passedOver : Nat
  groupsTaken : Nat
  groupsMalformed : Nat
  cells : List Host.Cell

/-- These fields of a state. -/
def groupFacts (s : State) : GroupFacts :=
  { expected := s.intake.expected, newest := s.intake.newest, firstFrame := s.intake.firstFrame, setup := s.intake.setup
    copied := s.faults.newest, received := s.session.totals.received, missing := s.session.totals.missing
    written := s.session.totals.written, passedOver := s.session.totals.passedOver
    groupsTaken := s.counters.intake.groupsTaken, groupsMalformed := s.counters.intake.groupsMalformed
    cells := s.mem.cells }

theorem groupFacts_of_cap {s t : State} (h : Cap s t) : groupFacts t = groupFacts s := by
  have e := congrArg groupFacts h.view
  exact e

theorem groupFacts_of_drops {s t : State} (h : Drops s t) : groupFacts t = groupFacts s := by
  have e := congrArg groupFacts h.view
  exact e

theorem counting_of_drops {s t : State} (h : Drops s t) : t.counting = s.counting := by
  have e := congrArg State.counting h.view
  exact e

/-- The facts with one more group counted as taken, while the session counts. -/
def GroupFacts.countTaken (counting : Bool) (g : GroupFacts) : GroupFacts :=
  { g with groupsTaken := if counting then sat g.groupsTaken 1 else g.groupsTaken }

theorem groupFacts_countTaken (s : State) :
    groupFacts (countIntake (fun c => { c with groupsTaken := sat c.groupsTaken 1 }) s) =
      (groupFacts s).countTaken s.counting := by
  unfold countIntake GroupFacts.countTaken
  split <;> rfl

/-- The facts with one more group counted as malformed, while the session counts. -/
def GroupFacts.countMalformed (counting : Bool) (g : GroupFacts) : GroupFacts :=
  { g with groupsMalformed := if counting then sat g.groupsMalformed 1 else g.groupsMalformed }

theorem groupFacts_countMalformed (s : State) :
    groupFacts (countIntake (fun c => { c with groupsMalformed := sat c.groupsMalformed 1 }) s) =
      (groupFacts s).countMalformed s.counting := by
  unfold countIntake GroupFacts.countMalformed
  split <;> rfl

theorem groupFacts_fixFirstFrame (frame : Nat) (s : State) :
    groupFacts (fixFirstFrame frame s) =
      { groupFacts s with firstFrame := (groupFacts s).firstFrame.or (some frame) } := by
  unfold fixFirstFrame
  split
  · next h => simp [groupFacts, h]
  · next h => simp [groupFacts, h, alignerFirstFrame, setAligner, setWriter, setIntake]

theorem counting_fixFirstFrame (frame : Nat) (s : State) : (fixFirstFrame frame s).counting = s.counting := by
  unfold fixFirstFrame; split <;> rfl

/-! ## The frames of a group taken (R127, R135) -/

/-- The group entered in the first frame, the counts and the totals, before its frames are judged. -/
def groupCounted (first skip : Nat) (s : State) : State :=
  addTotals (fun t => { t with received := sat t.received (32 - skip) })
    (countIntake (fun c => { c with groupsTaken := sat c.groupsTaken 1 })
      (fixFirstFrame (Config.frameIndex (first + skip)) s))

/-- The expected and newest indices moved past the group, after its frames have been judged. -/
def groupIndexed (first : Nat) (s : State) : State :=
  { setIntake
      (fun k =>
        ({ k with
          expected := some (Config.frameIndex (first + 32)), newest := some (Config.frameIndex (first + 31))
          inTransfer := .nothing }).examineUrgency) s with
    faults := { s.faults with newest := Config.frameIndex (first + 31) } }

theorem takeFrames_eq (first skip : Nat) (frames : Vector (Vector Sample 8) 32) (s : State) :
    takeFrames first skip frames s =
      alignerGroup (Config.frameIndex (first + 31))
        (groupIndexed first ((groupFrames s.intake.setup first skip frames).foldl judgeFrame (groupCounted first skip s))) :=
  rfl

theorem drops_judgeFrames (l : List (Nat × List Byte)) (s : State) : Drops s (l.foldl judgeFrame s) :=
  Rel.foldl _ drops_judgeFrame l s

theorem grp_groupCounted (first skip : Nat) (s : State) : Grp s (groupCounted first skip s) :=
  ((grp_fixFirstFrame _ s).trans (grp_countIntake _ _)).trans (grp_addTotals _ _)

theorem grp_groupIndexed (first : Nat) (s : State) : Grp s (groupIndexed first s) := Rel.of rfl rfl rfl rfl rfl

theorem grp_takeFrames (first skip : Nat) (frames : Vector (Vector Sample 8) 32) (s : State) :
    Grp s (takeFrames first skip frames s) := by
  rw [takeFrames_eq]
  exact (((grp_groupCounted first skip s).trans (grp_of_drops (drops_judgeFrames _ _))).trans
    (grp_groupIndexed first _)).trans (grp_of_cap (cap_alignerGroup _ _))

theorem groupFacts_groupCounted (first skip : Nat) (s : State) :
    groupFacts (groupCounted first skip s) =
      ({ groupFacts s with
        firstFrame := (groupFacts s).firstFrame.or (some (Config.frameIndex (first + skip)))
        received := sat (groupFacts s).received (32 - skip) } : GroupFacts).countTaken s.counting := by
  have counted := groupFacts_countTaken (fixFirstFrame (Config.frameIndex (first + skip)) s)
  rw [groupFacts_fixFirstFrame, counting_fixFirstFrame] at counted
  calc groupFacts (groupCounted first skip s)
      = { groupFacts (countIntake (fun c => { c with groupsTaken := sat c.groupsTaken 1 })
            (fixFirstFrame (Config.frameIndex (first + skip)) s)) with
          received := sat (groupFacts (countIntake (fun c => { c with groupsTaken := sat c.groupsTaken 1 })
            (fixFirstFrame (Config.frameIndex (first + skip)) s))).received (32 - skip) } := rfl
    _ = _ := by rw [counted]; rfl

theorem groupFacts_groupIndexed (first : Nat) (s : State) :
    groupFacts (groupIndexed first s) =
      { groupFacts s with
        expected := some (Config.frameIndex (first + 32)), newest := some (Config.frameIndex (first + 31))
        copied := Config.frameIndex (first + 31) } := by
  unfold groupIndexed setIntake Intake.examineUrgency
  dsimp only
  split <;> rfl

/-- The facts after the frames of a group past the first `skip` have been taken. -/
def GroupFacts.taken (first skip : Nat) (counting : Bool) (g : GroupFacts) : GroupFacts :=
  ({ g with
    expected := some (Config.frameIndex (first + 32)), newest := some (Config.frameIndex (first + 31))
    firstFrame := g.firstFrame.or (some (Config.frameIndex (first + skip)))
    copied := Config.frameIndex (first + 31), received := sat g.received (32 - skip) } : GroupFacts).countTaken counting

theorem groupFacts_takeFrames (first skip : Nat) (frames : Vector (Vector Sample 8) 32) (s : State) :
    groupFacts (takeFrames first skip frames s) = (groupFacts s).taken first skip s.counting := by
  rw [takeFrames_eq, groupFacts_of_cap (cap_alignerGroup _ _), groupFacts_groupIndexed,
    groupFacts_of_drops (drops_judgeFrames _ _), groupFacts_groupCounted]
  rfl

/-! ## Frames declared missing (R132) -/

/-- The frames lost and entered in the total missing. -/
def missingCounted (start n : Nat) (s : State) : State :=
  addTotals (fun t => { t with missing := sat t.missing n })
    (countIntake (fun c => { c with dropsIndex := sat c.dropsIndex n }) (loseFrames start n .linkIndex s))

theorem declareMissing_eq (start next : Nat) (s : State) :
    declareMissing start next s =
      alignerMissing start next (reportDrops (next - start) (missingCounted start (next - start) s)) := rfl

theorem drops_missingLost (start n : Nat) (s : State) :
    Drops s (countIntake (fun c => { c with dropsIndex := sat c.dropsIndex n }) (loseFrames start n .linkIndex s)) :=
  Rel.trans (drops_loseFrames start n .linkIndex s) (drops_countIntake (by rfl))

theorem groupFacts_missingCounted (start n : Nat) (s : State) :
    groupFacts (missingCounted start n s) = { groupFacts s with missing := sat (groupFacts s).missing n } := by
  rw [← groupFacts_of_drops (drops_missingLost start n s)]
  rfl

theorem grp_declareMissing (start next : Nat) (s : State) : Grp s (declareMissing start next s) := by
  rw [declareMissing_eq]
  exact (((grp_of_drops (drops_missingLost _ _ s)).trans (grp_addTotals _ _)).trans
    (grp_of_drops (drops_reportDrops _ _))).trans (grp_of_cap (cap_alignerMissing _ _ _))

theorem groupFacts_declareMissing (start next : Nat) (s : State) :
    groupFacts (declareMissing start next s) =
      { groupFacts s with missing := sat (groupFacts s).missing (next - start) } := by
  rw [declareMissing_eq, groupFacts_of_cap (cap_alignerMissing _ _ _), groupFacts_of_drops (drops_reportDrops _ _),
    groupFacts_missingCounted]

theorem counting_alignerMissing (first next : Nat) (s : State) : (alignerMissing first next s).counting = s.counting := by
  unfold alignerMissing; split <;> rfl

theorem counting_declareMissing (start next : Nat) (s : State) : (declareMissing start next s).counting = s.counting := by
  rw [declareMissing_eq, counting_alignerMissing, counting_of_drops (drops_reportDrops _ _),
    ← counting_of_drops (drops_missingLost start (next - start) s)]
  rfl

/-! ## A group against the expected index (R127) -/

theorem takeGroup_discarded {s : State} (h : s.intake.inTransfer = .discardGroup) (first : Nat)
    (frames : Vector (Vector Sample 8) 32) :
    takeGroup first frames s = setIntake (fun k => { k with inTransfer := .nothing }) s := by
  unfold takeGroup; rw [h]

theorem takeGroup_partial {s : State} {m : Nat} (h : s.intake.inTransfer = .partialGroup m) (first : Nat)
    (frames : Vector (Vector Sample 8) 32) : takeGroup first frames s = takeFrames first m frames s := by
  unfold takeGroup; rw [h]

theorem takeGroup_malformed {s : State} {first e : Nat} (h : s.intake.inTransfer = .nothing)
    (he : s.intake.expected = some e) (hlt : first < e) (frames : Vector (Vector Sample 8) 32) :
    takeGroup first frames s =
      logFault .intake .malformedGroup first
        (countIntake (fun c => { c with groupsMalformed := sat c.groupsMalformed 1 }) s) := by
  unfold takeGroup; rw [h, he]; exact if_pos hlt

theorem takeGroup_gap {s : State} {first e : Nat} (h : s.intake.inTransfer = .nothing)
    (he : s.intake.expected = some e) (hlt : e < first) (frames : Vector (Vector Sample 8) 32) :
    takeGroup first frames s = takeFrames first 0 frames (declareMissing e first s) := by
  unfold takeGroup; rw [h, he]; dsimp only; rw [if_neg (by omega), if_neg (by omega)]

theorem takeGroup_next {s : State} {first : Nat} (h : s.intake.inTransfer = .nothing)
    (he : ∀ e, s.intake.expected = some e → e = first) (frames : Vector (Vector Sample 8) 32) :
    takeGroup first frames s = takeFrames first 0 frames s := by
  unfold takeGroup
  rw [h]
  cases hx : s.intake.expected with
  | none => rfl
  | some e =>
    dsimp only
    rw [if_neg (by have := he e hx; omega), if_pos (he e hx).symm]

/-! ## FRAME_GROUP -/

/-- What follows the taking of a group: writer and aligner settle, a cut that the group closed is processed, and the engine
goes on. -/
def groupSettled (u : State) : State := captureEvent (cutClosed (settle u))

theorem cap_groupSettled (u : State) : Cap u (groupSettled u) :=
  ((cap_settle u).trans (cap_cutClosed _)).trans (cap_captureEvent _)

theorem exec_frameGroup_accepting {s : State} (hu : s.intake.linkUp = true) (ha : s.intake.state = .accepting)
    (first : BitVec 64) (frames : Vector (Vector Sample 8) 32) :
    exec (.frameGroup first frames) s = .next (groupSettled (takeGroup first.toNat frames s)) := by
  show execFrameGroup first frames s = _
  unfold execFrameGroup
  rw [if_pos (by simp [hu, ha])]
  rfl

theorem exec_frameGroup_ignored {s : State} (h : s.intake.linkUp = false ∨ s.intake.state ≠ .accepting)
    (first : BitVec 64) (frames : Vector (Vector Sample 8) 32) : exec (.frameGroup first frames) s = .next s := by
  show execFrameGroup first frames s = _
  unfold execFrameGroup
  rw [if_neg (by rcases h with h | h <;> simp [h])]

/-! ## A group taken -/

/-- What the taking of a group past its first `skip` frames leaves, but for the total missing. -/
def GroupTaken (first skip : Nat) (s t : State) : Prop :=
  t.intake.expected = some (Config.frameIndex (first + 32)) ∧ t.intake.newest = some (Config.frameIndex (first + 31)) ∧
    t.faults.newest = Config.frameIndex (first + 31) ∧
    t.session.totals.received = sat s.session.totals.received (32 - skip) ∧
    (s.counting = true → t.counters.intake.groupsTaken = sat s.counters.intake.groupsTaken 1) ∧
    t.intake.firstFrame = s.intake.firstFrame.or (some (Config.frameIndex (first + skip))) ∧
    t.intake.setup = s.intake.setup ∧ t.session.totals.written = s.session.totals.written ∧
    t.session.totals.passedOver = s.session.totals.passedOver ∧ t.mem.cells = s.mem.cells ∧
    t.apartFromIntake = s.apartFromIntake ∧ ∀ q, PortKept (s.port q) (t.port q)

theorem groupTaken_of {s u : State} {first skip x : Nat} (h : Grp s u)
    (f : groupFacts u = { (groupFacts s).taken first skip s.counting with missing := x }) :
    GroupTaken first skip s (groupSettled u) ∧ (groupSettled u).session.totals.missing = x := by
  have settled := h.trans (grp_of_cap (cap_groupSettled u))
  have facts := (groupFacts_of_cap (cap_groupSettled u)).trans f
  simp only [groupFacts, GroupFacts.taken, GroupFacts.countTaken, GroupFacts.mk.injEq] at facts
  obtain ⟨expected, newest, firstFrame, setup, copied, received, missing, written, passedOver, groups, -, cells⟩ := facts
  exact ⟨⟨expected, newest, copied, received, fun hc => groups.trans (if_pos hc), firstFrame, setup, written, passedOver,
    cells, settled.view, settled.ports⟩, missing⟩

theorem groupTaken_takeFrames (first skip : Nat) (frames : Vector (Vector Sample 8) 32) (s : State) :
    GroupTaken first skip s (groupSettled (takeFrames first skip frames s)) ∧
      (groupSettled (takeFrames first skip frames s)).session.totals.missing = s.session.totals.missing :=
  groupTaken_of (grp_takeFrames first skip frames s) (groupFacts_takeFrames first skip frames s)

theorem groupTaken_gap (first e : Nat) (frames : Vector (Vector Sample 8) 32) (s : State) :
    GroupTaken first 0 s (groupSettled (takeFrames first 0 frames (declareMissing e first s))) ∧
      (groupSettled (takeFrames first 0 frames (declareMissing e first s))).session.totals.missing =
        sat s.session.totals.missing (first - e) := by
  refine groupTaken_of ((grp_declareMissing e first s).trans (grp_takeFrames first 0 frames _)) ?_
  rw [groupFacts_takeFrames, groupFacts_declareMissing, counting_declareMissing]
  rfl

/-- Settles O13: the frames of a group are taken as they are, or after the frames of the gap before it are declared missing. -/
theorem frameGroupIsTaken : Obligations.FrameGroupIsTaken := by
  unfold Obligations.FrameGroupIsTaken
  intro first frames s hu ha index taken
  have run := exec_frameGroup_accepting hu ha first frames
  refine ⟨fun k hk => if_pos hk, fun hn he => ?whole, fun m hm => ?inTransfer⟩
  case whole =>
    by_cases gap : ∃ e, s.intake.expected = some e ∧ e < first.toNat
    · obtain ⟨e, hx, hlt⟩ := gap
      rw [takeGroup_gap hn hx hlt] at run
      obtain ⟨all, missing⟩ := groupTaken_gap first.toNat e frames s
      exact ⟨_, run, all, fun e' hx' _ => by rw [missing]; cases hx.symm.trans hx'; rfl,
        fun same => absurd (same e hx) hlt.ne⟩
    · have next : ∀ e, s.intake.expected = some e → e = first.toNat := fun e hx =>
        (he e hx).antisymm (not_lt.mp (fun hlt => gap ⟨e, hx, hlt⟩))
      rw [takeGroup_next hn next] at run
      obtain ⟨all, missing⟩ := groupTaken_takeFrames first.toNat 0 frames s
      exact ⟨_, run, all, fun e hx hlt => absurd ⟨e, hx, hlt⟩ gap, fun _ => missing⟩
  case inTransfer =>
    rw [takeGroup_partial hm] at run
    obtain ⟨all, missing⟩ := groupTaken_takeFrames first.toNat m frames s
    exact ⟨_, run, all, missing⟩

/-! ## A group not taken -/

/-- A malformed group, counted and logged. -/
def malformedLogged (first : Nat) (s : State) : State :=
  logFault .intake .malformedGroup first
    (countIntake (fun c => { c with groupsMalformed := sat c.groupsMalformed 1 }) s)

theorem grp_malformedLogged (first : Nat) (s : State) : Grp s (malformedLogged first s) :=
  (grp_countIntake _ s).trans (grp_of_cap (Told.cap (told_logFault _ _ _ _)))

theorem groupFacts_malformedLogged (first : Nat) (s : State) :
    groupFacts (malformedLogged first s) = (groupFacts s).countMalformed s.counting :=
  (groupFacts_of_cap (Told.cap (told_logFault _ _ _ _))).trans (groupFacts_countMalformed s)

theorem faultReported_malformedLogged (first : Nat) (s : State) :
    FaultReported s (malformedLogged first s) .intake .malformedGroup first :=
  faultReported_congr (faultReported_logFault _ _ _ _) (countIntake_faults _ s).symm rfl

/-- Settles O14: with nothing accepted nothing happens; a group before the expected index is counted and logged, and one in
transfer at START under GROUP alignment goes, with no index, total or count of groups taken moved. -/
theorem frameGroupNotTaken : Obligations.FrameGroupNotTaken := by
  unfold Obligations.FrameGroupNotTaken
  intro first frames s
  refine ⟨fun h => exec_frameGroup_ignored h first frames, fun hu ha hn e he hlt => ?malformed, fun hu ha hd => ?discarded⟩
  case malformed =>
    have run := exec_frameGroup_accepting hu ha first frames
    rw [takeGroup_malformed hn he hlt] at run
    have settled := (grp_malformedLogged first.toNat s).trans (grp_of_cap (cap_groupSettled _))
    have facts := (groupFacts_of_cap (cap_groupSettled _)).trans (groupFacts_malformedLogged first.toNat s)
    simp only [groupFacts, GroupFacts.countMalformed, GroupFacts.mk.injEq] at facts
    obtain ⟨expected, newest, -, -, copied, received, missing, -, -, -, malformed, -⟩ := facts
    exact ⟨malformedLogged first.toNat s, _, faultReported_malformedLogged _ s, run, rfl, expected.trans he, newest, copied,
      received, missing, fun hc => malformed.trans (if_pos hc), settled.view, settled.ports⟩
  case discarded =>
    have run := exec_frameGroup_accepting hu ha first frames
    rw [takeGroup_discarded hd] at run
    have settled := (grp_setIntake (fun k => { k with inTransfer := .nothing }) s).trans (grp_of_cap (cap_groupSettled _))
    have facts := groupFacts_of_cap (cap_groupSettled (setIntake (fun k => { k with inTransfer := .nothing }) s))
    simp only [groupFacts, GroupFacts.mk.injEq] at facts
    obtain ⟨expected, newest, -, -, -, received, -, -, -, groups, -⟩ := facts
    exact ⟨_, run, expected, newest, received, groups, settled.view, settled.ports⟩

end Sys2Proof.Proofs
end

section
/-! PROOF. The memory service: capture memory in its canonical form and written by the writer's bursts alone, the bound of
the refresh debt, the end of calibration, a refresh that comes due, and the arbiter's grants. -/

namespace Sys2Proof.Proofs

open Sys2Proof.Machine Sys2Proof.Laws

/-! ## A step -/

/-- A step is a tick, or runs the front command on the state with the queue's rest. -/
theorem step_next {s t : State} (h : step s = .next t) :
    t = tick s ∨ ∃ c rest, s.pending = c :: rest ∧ exec c { s with pending := rest } = .next t := by
  unfold step at h
  split at h
  · exact .inl (Host.Outcome.next.inj h).symm
  · next c rest hp => exact .inr ⟨c, rest, hp, h⟩

/-- A property that a tick and every command keep, and that does not read the queue of commands, is kept by a step. -/
theorem step_keeps {P : State → Prop} (queue : ∀ s rest, P s → P { s with pending := rest })
    (ticks : ∀ s, P s → P (tick s)) (commands : ∀ c s t, exec c s = .next t → P s → P t) {s t : State} (hs : P s)
    (h : step s = .next t) : P t := by
  obtain ticked | ⟨c, rest, -, run⟩ := step_next h
  · rw [ticked]; exact ticks s hs
  · exact commands c _ t run (queue s rest hs)

/-! ## Commands that do not write capture memory -/

/-- Every command but POWER_ON, CALIBRATION_SUCCESS and WRITER_BURST_DONE keeps what `Base` says, of one port or the
other. -/
theorem base_exec {c : Instr} {s t : State} (h : exec c s = .next t) (hp : c ≠ .powerOn) (hc : c ≠ .calibrationSuccess)
    (hw : ∀ ks, c ≠ .writerBurstDone ks) : ∃ p, Base p s t := by
  cases c with
  | powerOn => exact absurd rfl hp
  | calibrationSuccess => exact absurd rfl hc
  | writerBurstDone ks => exact absurd rfl (hw ks)
  | completionHeadWrite p v => exact ⟨p, base_execCompletionHeadWrite h⟩
  | controlWindowWrite p off bs => exact ⟨p, base_execControlWindowWrite h⟩
  | portReset p => exact ⟨p, base_execPortReset h⟩
  | _ => exact ⟨.p0, (sound_exec h (by simp) (by simp) (by simp) (by simp) (by simp) (by simp)).base⟩

/-- Settles O8: such a command keeps the list of cells itself. -/
theorem onlyWriterBurstsWriteMemory : Obligations.OnlyWriterBurstsWriteMemory := by
  unfold Obligations.OnlyWriterBurstsWriteMemory
  intro c s t h hp hc hw a
  obtain ⟨p, kept⟩ := base_exec h hp hc hw
  rw [kept.cells]

/-! ## The canonical form (R148, R149) -/

theorem canonical_of_cells {s t : State} (e : t.mem.cells = s.mem.cells) (h : s.memoryCanonical) : t.memoryCanonical :=
  (congrArg (fun cs => Memory.wf cs = true) e).mpr h

theorem canonical_powerOn {s t : State} (h : exec .powerOn s = .next t) : t.memoryCanonical := by
  rw [exec_powerOn] at h
  cases h
  exact invariantsHoldAtReset.1

theorem canonical_calibrationSuccess {s t : State} (h : execCalibrationSuccess s = .next t) (hs : s.memoryCanonical) :
    t.memoryCanonical := by
  obtain rfl | zeroed := execCalibrationSuccess_next h
  · exact hs
  · exact canonical_of_cells zeroed.cells (rfl : Memory.wf [] = true)

/-- The bytes of a stored burst, and the merges of its granules, are written one by one. -/
theorem canonical_storeBurst (b : WriterBurst) (ks : List Strike) {s : State} (hs : s.memoryCanonical) :
    (storeBurst b ks s).memoryCanonical := wf_writeBurst _ _ _ hs

theorem canonical_writerBurstDone {ks : List Strike} {s t : State} (h : execWriterBurstDone ks s = .next t)
    (hs : s.memoryCanonical) : t.memoryCanonical := by
  obtain rfl | ⟨b, -, stored⟩ := execWriterBurstDone_next h
  · exact hs
  · exact canonical_of_cells stored.cells (canonical_storeBurst b ks hs)

theorem canonical_exec {c : Instr} {s t : State} (h : exec c s = .next t) (hs : s.memoryCanonical) :
    t.memoryCanonical := by
  cases c with
  | powerOn => exact canonical_powerOn h
  | calibrationSuccess => exact canonical_calibrationSuccess h hs
  | writerBurstDone ks => exact canonical_writerBurstDone h hs
  | _ =>
    obtain ⟨p, kept⟩ := base_exec h (by simp) (by simp) (by simp)
    exact canonical_of_cells kept.cells hs

/-- Settles O3: a tick leaves the cells alone, and every command that changes them writes byte by byte or lists nothing. -/
theorem memoryStaysCanonical : Obligations.MemoryStaysCanonical := by
  unfold Obligations.MemoryStaysCanonical
  exact fun _ _ => step_keeps (P := State.memoryCanonical) (fun _ _ => id)
    (fun s => canonical_of_cells (sound_tick s).cells) (fun _ _ _ => canonical_exec)

/-! ## The bound of the refresh debt (R144) -/

theorem debtBounded_powerOn {s t : State} (h : exec .powerOn s = .next t) : t.debtBounded := by
  rw [exec_powerOn] at h
  cases h
  exact invariantsHoldAtReset.2.1

theorem debtBounded_calibrationSuccess {s t : State} (h : execCalibrationSuccess s = .next t) (hs : s.debtBounded) :
    t.debtBounded := by
  obtain rfl | zeroed := execCalibrationSuccess_next h
  · exact hs
  · exact zeroed.debt (Nat.zero_le 9)

theorem storeBurst_debt (b : WriterBurst) (ks : List Strike) (s : State) : (storeBurst b ks s).mem.debt = s.mem.debt :=
  debt_writeBurst _ _ _

theorem debtBounded_writerBurstDone {ks : List Strike} {s t : State} (h : execWriterBurstDone ks s = .next t)
    (hs : s.debtBounded) : t.debtBounded := by
  obtain rfl | ⟨b, -, stored⟩ := execWriterBurstDone_next h
  · exact hs
  · exact stored.debt ((storeBurst_debt b ks s).trans_le hs)

theorem debtBounded_exec {c : Instr} {s t : State} (h : exec c s = .next t) (hs : s.debtBounded) : t.debtBounded := by
  cases c with
  | powerOn => exact debtBounded_powerOn h
  | calibrationSuccess => exact debtBounded_calibrationSuccess h hs
  | writerBurstDone ks => exact debtBounded_writerBurstDone h hs
  | _ =>
    obtain ⟨p, kept⟩ := base_exec h (by simp) (by simp) (by simp)
    exact kept.debt hs

/-- Settles O4: the debt rises only where a refresh comes due, to 9 at most. -/
theorem refreshDebtStaysBounded : Obligations.RefreshDebtStaysBounded := by
  unfold Obligations.RefreshDebtStaysBounded
  exact fun _ _ => step_keeps (P := State.debtBounded) (fun _ _ => id) (fun s => (sound_tick s).debt)
    (fun _ _ _ => debtBounded_exec)

/-! ## A fault report after a change of one block (R183) -/

/-- `t` is `v` with a fault of unit `u`, kind `k` and detail `d` logged, `v` having the ports and the fault records of
`s`. -/
structure FaultLogged (s v t : State) (u : FaultUnit) (k : FaultKind) (d : Nat) : Prop where
  fault : FaultReported s t u k d
  ports : ∀ p, PortKept (s.port p) (t.port p)
  apart : t.apartFromNotices = v.apartFromNotices

section Logged

variable {s v t : State} {u : FaultUnit} {k : FaultKind} {d : Nat}

theorem faultLogged_logFault (hf : v.faults = s.faults) (hp : ∀ p, v.port p = s.port p) :
    FaultLogged s v (logFault u k d v) u k d := by
  have told := told_logFault u k d v
  exact ⟨faultReported_congr (faultReported_logFault u k d v) hf.symm rfl, fun p => hp p ▸ told.ports p, told.view⟩

theorem FaultLogged.mem (h : FaultLogged s v t u k d) : t.mem = v.mem := by
  have e := congrArg (fun x : State => x.mem) h.apart
  exact e

theorem FaultLogged.memoryCounters (h : FaultLogged s v t u k d) : t.counters.memory = v.counters.memory := by
  have e := congrArg (fun x : State => x.counters.memory) h.apart
  exact e

end Logged

/-! ## The end of calibration (R149, R150) -/

/-- The memory service at the end of a successful calibration, before the arbiter's first grant. -/
def calibrated (m : MemService) : MemService :=
  { m with cal := .ready, debt := 0, refreshPhase := 0, cells := [], flipped := [], late := [] }

theorem exec_calibrationSuccess {s : State} (h : s.mem.cal = .calibrating) :
    exec .calibrationSuccess s = .next (arbitrate { s with mem := calibrated s.mem }) :=
  congrArg Host.Outcome.next (if_pos h)

/-- The state in which calibration has failed, before the report. -/
def calibrationFailed (s : State) : State := { s with mem := { s.mem with cal := .failed } }

theorem calibrationFailed_port (s : State) (p : Port) : (calibrationFailed s).port p = s.port p := by cases p <;> rfl

theorem exec_calibrationFailure {s : State} (h : s.mem.cal = .calibrating) :
    exec .calibrationFailure s = .next (logFault .memory .calibration 0 (calibrationFailed s)) :=
  congrArg Host.Outcome.next (if_pos h)

/-- Settles O10: with success what the arbiter then grants changes neither capture memory nor a debt of 0; with failure all
but the state of the calibration is a fault report's. -/
theorem calibrationEnds : Obligations.CalibrationEnds := by
  unfold Obligations.CalibrationEnds
  refine fun s => ⟨fun h => ⟨?success, ?failure⟩, fun h => ?ended⟩
  case success =>
    obtain ⟨cal, -, -, cells, flipped, late, debt⟩ := granted_arbitrate { s with mem := calibrated s.mem }
    refine ⟨_, exec_calibrationSuccess h, cal, Nat.le_zero.mp debt, flipped, late, fun a => ?_, ?_⟩
    · rw [cells]; rfl
    · rw [arbitrate_eq]
  case failure =>
    have logged : FaultLogged s (calibrationFailed s) _ .memory .calibration 0 :=
      faultLogged_logFault rfl (calibrationFailed_port s)
    exact ⟨_, exec_calibrationFailure h, logged.mem, logged.fault, logged.ports, logged.apart⟩
  case ended => exact ⟨congrArg Host.Outcome.next (if_neg h), congrArg Host.Outcome.next (if_neg h)⟩

/-! ## The levels of the arbiter (R142, R143) -/

section Levels

variable {m : MemService} {urgent : Bool}

theorem grantWriter_some {b : WriterBurst} (h : m.writerAsk = some b) :
    m.grantWriter true = some { m with busy := some (.writer b), writerAsk := none } := by
  simp [MemService.grantWriter, h]

/-- At its upper level the writer has nothing to be granted unless the intake is urgent and a burst is asked. -/
theorem grantWriter_absent (h : urgent = false ∨ m.writerAsk = none) : m.grantWriter urgent = none := by
  unfold MemService.grantWriter
  obtain rfl | h := h
  · split <;> rfl
  · rw [h]

theorem grantArchive_some {b : ArchiveBurst} (h : m.archiveAsk = some b) :
    m.grantArchive = some { m with busy := some (.archive b false), archiveAsk := none } := by
  simp [MemService.grantArchive, h]

theorem grantArchive_none (h : m.archiveAsk = none) : m.grantArchive = none := by
  simp [MemService.grantArchive, h]

theorem grantWindowOf_cons {p : Port} {b : WindowBurst} {rest : List WindowBurst} (h : m.windowAsk p = b :: rest) :
    m.grantWindowOf p = some { m.setWindowAsk p rest with busy := some (.window b), pointer := p.other } := by
  simp [MemService.grantWindowOf, h]

theorem grantWindowOf_eq_none {p : Port} : m.grantWindowOf p = none ↔ m.windowAsk p = [] := by
  unfold MemService.grantWindowOf
  split
  · next h => simp [h]
  · next h => simp [h]

/-- There is a window read to grant, unless no burst of either port is asked. -/
theorem grantWindow_eq_none : m.grantWindow = none ↔ m.windowAsk0 = [] ∧ m.windowAsk1 = [] := by
  unfold MemService.grantWindow
  rw [Option.or_eq_none_iff, grantWindowOf_eq_none, grantWindowOf_eq_none]
  cases m.pointer with
  | p0 => exact Iff.rfl
  | p1 => exact and_comm

theorem windowAsk_granted (m : MemService) (p q : Port) (rest : List WindowBurst) (g : Option Grant) :
    ({ m.setWindowAsk p rest with busy := g, pointer := q } : MemService).windowAsk p = rest := by
  cases p <;> rfl

theorem other_other (p : Port) : p.other.other = p := by cases p <;> rfl

/-- A grant of window reads follows the pointer (R143). -/
theorem windowLevel_grantWindow (idle : m.busy = none) : WindowLevel m (m.grantWindow.getD m) := by
  unfold MemService.grantWindow
  refine ⟨fun b rest asked => ?named, fun empty b rest asked => ?other, fun empty emptyToo => ?neither⟩
  case named =>
    rw [grantWindowOf_cons asked]
    exact ⟨rfl, rfl, windowAsk_granted m _ _ rest _⟩
  case other =>
    rw [grantWindowOf_eq_none.mpr empty, grantWindowOf_cons asked]
    exact ⟨rfl, other_other _, windowAsk_granted m _ _ rest _⟩
  case neither =>
    rw [grantWindowOf_eq_none.mpr empty, grantWindowOf_eq_none.mpr emptyToo]
    exact ⟨idle, rfl⟩

/-! ### The order of the levels -/

theorem grant_debtMax (h : 9 ≤ m.debt) :
    m.grant urgent = some { m with busy := some .refresh, debt := m.debt - 1 } := by
  simp [MemService.grant, MemService.grantRefresh, Config.debtMax, h]

/-- Below debt 9 the level of an overdue refresh is empty. -/
theorem grantRefresh_below (h : m.debt < 9) : m.grantRefresh (decide (Config.debtMax ≤ m.debt)) = none := by
  simp [MemService.grantRefresh, Config.debtMax, Nat.not_le.mpr h]

theorem grant_urgent {b : WriterBurst} (h : m.debt < 9) (asked : m.writerAsk = some b) :
    m.grant true = some { m with busy := some (.writer b), writerAsk := none } := by
  unfold MemService.grant
  rw [grantRefresh_below h, grantWriter_some asked]
  rfl

theorem grant_owed (owed : 1 ≤ m.debt) (h : m.debt < 9) (absent : urgent = false ∨ m.writerAsk = none) :
    m.grant urgent = some { m with busy := some .refresh, debt := m.debt - 1 } := by
  unfold MemService.grant
  rw [grantRefresh_below h, grantWriter_absent absent]
  simp [MemService.grantRefresh, owed]

/-- With no refresh owed both levels of a refresh are empty. -/
theorem grantRefresh_noDebt (h : m.debt = 0) : m.grantRefresh (decide (1 ≤ m.debt)) = none := by
  simp [MemService.grantRefresh, h]

/-- By NORMAL order the writer comes first, urgent or not. -/
theorem grant_normal (h : m.debt = 0) (order : m.order = .normal) :
    m.grant urgent = (m.grantWriter true).or (m.grantArchive.or m.grantWindow) := by
  unfold MemService.grant
  rw [grantRefresh_below (by omega), grantRefresh_noDebt h, order]
  simp only [Option.none_or]
  cases urgent with
  | true => rw [← Option.or_assoc, Option.or_self]
  | false => rw [grantWriter_absent (.inl rfl), Option.none_or]

theorem grant_viewFirst (h : m.debt = 0) (order : m.order = .viewFirst) (absent : urgent = false ∨ m.writerAsk = none) :
    m.grant urgent = m.grantWindow.or ((m.grantWriter true).or m.grantArchive) := by
  unfold MemService.grant
  rw [grantRefresh_below (by omega), grantRefresh_noDebt h, order, grantWriter_absent absent]
  simp only [Option.none_or]

/-- The grant of `m` with none in progress is `k`, by NORMAL order: the writer, the archive engine, window reads. -/
def NormalOrder (m k : MemService) : Prop :=
  (∀ b, m.writerAsk = some b → k.busy = some (.writer b)) ∧
    (m.writerAsk = none → ∀ b, m.archiveAsk = some b → k.busy = some (.archive b false)) ∧
    (m.writerAsk = none → m.archiveAsk = none → WindowLevel m k)

/-- The grant of `m` with none in progress is `k`, by VIEW_FIRST order: window reads, the writer, the archive engine. -/
def ViewFirstOrder (m k : MemService) : Prop :=
  ((m.windowAsk0 ≠ [] ∨ m.windowAsk1 ≠ []) → WindowLevel m k) ∧
    (m.windowAsk0 = [] → m.windowAsk1 = [] →
      (∀ b, m.writerAsk = some b → k.busy = some (.writer b)) ∧
        (m.writerAsk = none → ∀ b, m.archiveAsk = some b → k.busy = some (.archive b false)) ∧
        (m.writerAsk = none → m.archiveAsk = none → k.busy = none))

theorem normalOrder_grant (idle : m.busy = none) (h : m.debt = 0) (order : m.order = .normal) :
    NormalOrder m ((m.grant urgent).getD m) := by
  rw [grant_normal h order]
  refine ⟨fun b asked => ?writer, fun quiet b asked => ?archive, fun quiet still => ?window⟩
  case writer => rw [grantWriter_some asked]; rfl
  case archive => rw [grantWriter_absent (.inr quiet), grantArchive_some asked]; rfl
  case window =>
    rw [grantWriter_absent (.inr quiet), grantArchive_none still]
    exact windowLevel_grantWindow idle

theorem viewFirstOrder_grant (idle : m.busy = none) (h : m.debt = 0) (order : m.order = .viewFirst)
    (absent : urgent = false ∨ m.writerAsk = none) : ViewFirstOrder m ((m.grant urgent).getD m) := by
  rw [grant_viewFirst h order absent]
  refine ⟨fun reads => ?window, fun none0 none1 => ?noReads⟩
  case window =>
    have level := windowLevel_grantWindow idle
    cases granted : m.grantWindow with
    | none =>
      obtain ⟨none0, none1⟩ := grantWindow_eq_none.mp granted
      exact absurd reads (by simp [none0, none1])
    | some k => rw [granted] at level; exact level
  case noReads =>
    rw [grantWindow_eq_none.mpr ⟨none0, none1⟩]
    refine ⟨fun b asked => ?writer, fun quiet b asked => ?archive, fun quiet still => ?nothing⟩
    case writer => rw [grantWriter_some asked]; rfl
    case archive => rw [grantWriter_absent (.inr quiet), grantArchive_some asked]; rfl
    case nothing => rw [grantWriter_absent (.inr quiet), grantArchive_none still]; exact idle

end Levels

/-! ## The grant after a refresh (R142 to R144) -/

/-- A refresh that completes in READY is followed by the arbiter's grant, if there is one to make. -/
theorem exec_refreshDone {s : State} (busy : s.mem.busy = some .refresh) (ready : s.mem.cal = .ready) :
    exec .refreshDone s =
      .next { s with mem := ((releaseGrant s).mem.grant s.intake.urgent).getD (releaseGrant s).mem } := by
  show Host.Outcome.next _ = _
  rw [if_pos busy]
  exact congrArg Host.Outcome.next (if_pos (by simp [releaseGrant, ready]))

/-- Settles O12: each clause is one level of the arbiter, with the levels above it empty; a memory service without the
completed refresh asks and owes what it did. -/
theorem arbiterGrantsHighestLevel : Obligations.ArbiterGrantsHighestLevel := by
  unfold Obligations.ArbiterGrantsHighestLevel
  intro s busy ready
  refine ⟨_, exec_refreshDone busy ready, rfl, (granted_getD (releaseGrant s).mem _).cells, fun debt => ?overdue,
    fun debt urgent b asked => ?urgent, fun owed debt absent => ?owed, fun debt order => ?normal,
    fun debt order absent => ?viewFirst⟩
  case overdue => rw [grant_debtMax (m := (releaseGrant s).mem) debt]; exact ⟨rfl, rfl⟩
  case urgent => rw [urgent, grant_urgent (m := (releaseGrant s).mem) debt asked]; exact ⟨rfl, rfl⟩
  case owed => rw [grant_owed (m := (releaseGrant s).mem) owed debt absent]; exact ⟨rfl, rfl⟩
  case normal => exact normalOrder_grant (m := (releaseGrant s).mem) rfl debt order
  case viewFirst => exact viewFirstOrder_grant (m := (releaseGrant s).mem) rfl debt order absent

/-! ## What a grant takes off the debt (R144) -/

/-- Grant `k` of `m` lowers the debt by one for a refresh and leaves it for anything else. -/
def DebtPaid (m k : MemService) : Prop := k.debt + (if k.busy = some .refresh then 1 else 0) = m.debt

theorem debtPaid_refresh {m k : MemService} {n : Nat} (hn : 1 ≤ n) (h : m.grantRefresh (decide (n ≤ m.debt)) = some k) :
    DebtPaid m k := by
  unfold MemService.grantRefresh at h
  split at h
  · next present =>
    have owed := of_decide_eq_true present
    cases h
    exact Nat.sub_add_cancel (hn.trans owed)
  · cases h

theorem debtPaid_writer {m k : MemService} {present : Bool} (h : m.grantWriter present = some k) : DebtPaid m k := by
  unfold MemService.grantWriter at h
  split at h
  · split at h
    · cases h; rfl
    · cases h
  · cases h

theorem debtPaid_archive {m k : MemService} (h : m.grantArchive = some k) : DebtPaid m k := by
  unfold MemService.grantArchive at h
  split at h
  · cases h; rfl
  · cases h

theorem debtPaid_windowOf {m k : MemService} {p : Port} (h : m.grantWindowOf p = some k) : DebtPaid m k := by
  unfold MemService.grantWindowOf at h
  split at h
  · cases h
  · cases h; cases p <;> rfl

theorem debtPaid_or {m k : MemService} {a b : Option MemService} (ha : ∀ k, a = some k → DebtPaid m k)
    (hb : ∀ k, b = some k → DebtPaid m k) (h : a.or b = some k) : DebtPaid m k := by
  obtain first | ⟨-, second⟩ := Option.or_eq_some_iff.mp h
  · exact ha k first
  · exact hb k second

theorem debtPaid_window {m k : MemService} (h : m.grantWindow = some k) : DebtPaid m k :=
  debtPaid_or (fun _ => debtPaid_windowOf) (fun _ => debtPaid_windowOf) h

/-- Whatever level is granted, the debt is paid for. -/
theorem debtPaid_grant {m k : MemService} {urgent : Bool} (h : m.grant urgent = some k) : DebtPaid m k := by
  refine debtPaid_or (fun _ => debtPaid_refresh (by decide)) (fun _ => debtPaid_or (fun _ => debtPaid_writer)
    (fun _ => debtPaid_or (fun _ => debtPaid_refresh le_rfl) (fun _ h => ?_))) h
  split at h
  · exact debtPaid_or (fun _ => debtPaid_writer)
      (fun _ => debtPaid_or (fun _ => debtPaid_archive) (fun _ => debtPaid_window)) h
  · exact debtPaid_or (fun _ => debtPaid_window)
      (fun _ => debtPaid_or (fun _ => debtPaid_writer) (fun _ => debtPaid_archive)) h

/-- The arbiter pays for a refresh only with a grant where none was in progress. -/
theorem arbitrate_debt (s : State) :
    (arbitrate s).mem.debt + (if s.mem.busy = none ∧ (arbitrate s).mem.busy = some .refresh then 1 else 0) =
      s.mem.debt := by
  unfold arbitrate
  split
  · next h =>
    obtain ⟨idle, -⟩ := Bool.and_eq_true_iff.mp h
    have idle := Option.isNone_iff_eq_none.mp idle
    cases granted : s.mem.grant s.intake.urgent with
    | none => simp [idle]
    | some k => simpa [DebtPaid, idle] using debtPaid_grant granted
  · have unpaid : ¬ (s.mem.busy = none ∧ s.mem.busy = some .refresh) := fun ⟨h, k⟩ => by rw [h] at k; cases k
    rw [if_neg unpaid, Nat.add_zero]

/-! ## A refresh that comes due (R144, R145) -/

/-- The memory service after a refresh has come due: one more owed, at most 9, and the timer from its start. -/
def owingOneMore (m : MemService) : MemService := { m with debt := min (m.debt + 1) 9, refreshPhase := 0 }

/-- The state in which an overdue refresh has been counted, before the report. -/
def overdueCounted (s : State) : State :=
  countMemory (fun c => { c with refreshOverdue := sat c.refreshOverdue 1 }) { s with mem := owingOneMore s.mem }

theorem overdueCounted_port (s : State) (p : Port) : (overdueCounted s).port p = s.port p := by cases p <;> rfl

theorem refreshComesDue_within {s : State} (ready : s.mem.cal = .ready) (h : s.mem.debt < 8) :
    refreshComesDue s = { s with mem := owingOneMore s.mem } := by
  have within : ¬ Config.debtMax ≤ s.mem.debt + 1 := by unfold Config.debtMax; omega
  unfold refreshComesDue
  rw [if_pos ready]
  exact if_neg within

theorem refreshComesDue_overdue {s : State} (ready : s.mem.cal = .ready) (h : 8 ≤ s.mem.debt) :
    refreshComesDue s = logFault .memory .refreshOverdue 0 (overdueCounted s) := by
  have overdue : Config.debtMax ≤ s.mem.debt + 1 := by unfold Config.debtMax; omega
  unfold refreshComesDue
  rw [if_pos ready]
  exact if_pos overdue

/-- Out of READY there is no refresh to come due and no grant to make (R149). -/
theorem exec_refreshDue_notReady {s : State} (h : s.mem.cal ≠ .ready) : exec .refreshDue s = .next s := by
  have nothingDue : refreshComesDue s = s := if_neg h
  have noGrant : arbitrate s = s := if_neg (by simp [h])
  show Host.Outcome.next _ = _
  rw [nothingDue, noGrant]

/-- What the arbiter leaves of a state in which a refresh has come due. -/
theorem arbitrate_owing {s u : State} (h : u.mem = owingOneMore s.mem) :
    (arbitrate u).mem.debt + (if s.mem.busy = none ∧ (arbitrate u).mem.busy = some .refresh then 1 else 0) =
        min (s.mem.debt + 1) 9 ∧
      (arbitrate u).mem.refreshPhase = 0 ∧ (arbitrate u).mem.cells = s.mem.cells := by
  obtain ⟨-, -, phase, cells, -, -, -⟩ := granted_arbitrate u
  have paid := arbitrate_debt u
  rw [h] at phase cells paid
  exact ⟨paid, phase, cells⟩

/-- Settles O11: by the debt before, a refresh that comes due changes the memory service alone, or is counted and reported
too; the arbiter goes on from there. -/
theorem refreshComesDue : Obligations.RefreshComesDue := by
  unfold Obligations.RefreshComesDue
  refine fun s => ⟨fun ready => ?due, exec_refreshDue_notReady⟩
  obtain within | overdue := Nat.lt_or_ge s.mem.debt 8
  · have run : exec .refreshDue s = .next (arbitrate { s with mem := owingOneMore s.mem }) :=
      congrArg (fun u => Host.Outcome.next (arbitrate u)) (refreshComesDue_within ready within)
    obtain ⟨debt, phase, cells⟩ := arbitrate_owing (s := s) (u := { s with mem := owingOneMore s.mem }) rfl
    refine ⟨_, run, debt, phase, cells, ?count, fun h => absurd within (Nat.not_lt.mpr h), fun _ => ?rest,
      fun p => ?port⟩
    case count => rw [if_neg (Nat.not_le.mpr within), (arbitrate_rest _).1]
    case rest => rw [arbitrate_eq]
    case port => rw [(arbitrate_port _ p).1]; cases p <;> exact portKept_refl _
  · have run : exec .refreshDue s = .next (arbitrate (logFault .memory .refreshOverdue 0 (overdueCounted s))) :=
      congrArg (fun u => Host.Outcome.next (arbitrate u)) (refreshComesDue_overdue ready overdue)
    have logged : FaultLogged s (overdueCounted s) _ .memory .refreshOverdue 0 :=
      faultLogged_logFault rfl (overdueCounted_port s)
    obtain ⟨debt, phase, cells⟩ := arbitrate_owing (s := s) logged.mem
    obtain ⟨counters, -, -, faults, -⟩ := arbitrate_rest (logFault .memory .refreshOverdue 0 (overdueCounted s))
    refine ⟨_, run, debt, phase, cells, ?count, fun _ => faultReported_congr logged.fault rfl faults,
      fun h => absurd h (Nat.not_lt.mpr overdue), fun p => ?port⟩
    case count => rw [if_pos overdue, counters, logged.memoryCounters]; rfl
    case port => rw [(arbitrate_port _ p).1]; exact logged.ports p

end Sys2Proof.Proofs
end

section
/-! PROOF. CONFIGURE: the lowest illegal field, and the record and generation that an accepted one leaves. -/

namespace Sys2Proof.Proofs

open Sys2Proof.Machine Sys2Proof.Laws

/-! ## The lowest illegal field (R153, R154) -/

theorem configFields_eq_range' : configFields = List.range' 1 20 := rfl

/-- CONFIGURE names field `n` exactly when it is the first of the twenty with an illegal value. -/
theorem badField_eq_some_iff {c : RawConfig} {n : Nat} :
    c.badField = some n ↔
      c.legal n = false ∧ (1 ≤ n ∧ n ≤ 20) ∧ ∀ m, 1 ≤ m → m < n → c.legal m = true := by
  unfold RawConfig.badField
  rw [configFields_eq_range', List.find?_range'_eq_some, List.mem_range'_1]
  simp only [Bool.not_eq_true', Bool.not_not]
  rw [show n < 1 + 20 ↔ n ≤ 20 by omega]

theorem badField_eq_none_iff {c : RawConfig} : c.badField = none ↔ ∀ n, 1 ≤ n → n ≤ 20 → c.legal n = true := by
  unfold RawConfig.badField
  rw [configFields_eq_range', List.find?_range'_eq_none]
  simp only [Bool.not_not]
  exact forall_congr' fun n => imp_congr_right fun _ => by rw [show n < 1 + 20 ↔ n ≤ 20 by omega]

/-! ## The cases of CONFIGURE (R154) -/

theorem exec_configure {s : State} {p : Port} {r : Passed} {c : RawConfig} (h : Waits s p 0x20 r)
    (hr : r.request = .configure c) (hi : s.session.inProgress = none) :
    exec (.configure p) s = .next (configure r c (s.without p 0x20)) := by
  show execConfigure p s = _
  unfold execConfigure
  rw [takeSession_of h hi]
  dsimp only
  rw [hr]

theorem configure_busy {s : State} (r : Passed) (c : RawConfig) (h : s.session.state ≠ .stopped) :
    configure r c s = answer r .busy 0 [] s := if_pos h

theorem configure_range {s : State} {c : RawConfig} {n : Nat} (r : Passed) (h : s.session.state = .stopped)
    (hn : c.badField = some n) : configure r c s = answer r .range n [] s := by
  unfold configure
  rw [if_neg (not_not.mpr h), hn]

/-- The session unit after an accepted CONFIGURE: the record replaced, the generation advanced by one (R154). -/
def configuredSession (c : RawConfig) (k : Session) : Session :=
  { k with config := some c.record, generation := wrapToOne k.generation }

/-- The completion of an accepted CONFIGURE, which keeps the generation it produced (log entry 44). -/
def acceptedCompletion (r : Passed) (g : BitVec 32) : Completion :=
  { r.completion .ok 0 [] with generation := some g }

theorem configure_accepted {s : State} {c : RawConfig} (r : Passed) (h : s.session.state = .stopped)
    (hn : c.badField = none) :
    configure r c s =
      answerBy (acceptedCompletion r (wrapToOne s.session.generation)) r (setSession (configuredSession c) s) := by
  unfold configure
  rw [if_neg (not_not.mpr h), hn]
  rfl

/-! ## What an answer that carries its own generation leaves -/

theorem sameBlocks_answerBy (k : Completion) (r : Passed) (s : State) : SameBlocks s (answerBy k r s) := by
  rw [answerBy_eq]
  exact sameBlocks_setPort _ _ s

/-- Settles O53: the session state and the lowest illegal field decide between two refusals and the acceptance, each one
answer to the request that waits. -/
theorem configurationIsAccepted : Obligations.ConfigurationIsAccepted := by
  unfold Obligations.ConfigurationIsAccepted
  intro p s r c h hr hi kept
  have run := exec_configure h hr hi
  refine ⟨fun hs => ?busy, fun hs n first last illegal lower => ?range, fun hs legal => ?accepted⟩
  case busy =>
    exact ⟨_, by rw [run, configure_busy (s := s.without p 0x20) r c hs], answer_atOnce h _ _ _⟩
  case range =>
    have bad : c.badField = some n := badField_eq_some_iff.mpr ⟨illegal, ⟨first, last⟩, lower⟩
    exact ⟨_, by rw [run, configure_range (s := s.without p 0x20) r hs bad], answer_atOnce h _ _ _⟩
  case accepted =>
    intro g
    have good : c.badField = none := badField_eq_none_iff.mpr legal
    have ports (q : Port) : (setSession (configuredSession c) (s.without p 0x20)).port q = s.port q := by
      rw [setSession_port, without_port]
    refine ⟨answerBy (acceptedCompletion r g) r (setSession (configuredSession c) (s.without p 0x20)), ?runs,
      replied_answerBy h.live _ ports, answerBy_session _ _ _, ?blocks, answerBy_counters _ _ _, answerBy_faults _ _ _⟩
    case runs => rw [run, configure_accepted (s := s.without p 0x20) r hs good]; rfl
    case blocks =>
      rw [answerBy_session]
      exact sameBlocks_answerBy _ _ _

end Sys2Proof.Proofs
end

section
/-! PROOF. The completion queue of a port under every command, and an interrupt write error. -/

namespace Sys2Proof.Proofs

open Sys2Proof.Machine Sys2Proof.Laws

/-! ## The completion queue (R167, R172) -/

theorem queueKept_of_base {p q : Port} {s t : State} (h : Base q s t) (hq : q ≠ p) : QueueKept (s.port p) (t.port p) := by
  obtain same | other := eq_or_eq_other q p
  · exact absurd same.symm hq
  · rw [other]; exact h.other

theorem queueKept_calibrationSuccess {s t : State} (h : execCalibrationSuccess s = .next t) (p : Port) :
    QueueKept (s.port p) (t.port p) := by
  obtain rfl | zeroed := execCalibrationSuccess_next h
  · exact queueKept_refl _
  · exact zeroed.queue p

theorem storeBurst_port (b : WriterBurst) (ks : List Strike) (s : State) (p : Port) :
    (storeBurst b ks s).port p = s.port p := port_of (s := s) (t := storeBurst b ks s) rfl rfl p

theorem queueKept_writerBurstDone {ks : List Strike} {s t : State} (h : execWriterBurstDone ks s = .next t) (p : Port) :
    QueueKept (s.port p) (t.port p) := by
  obtain rfl | ⟨b, -, stored⟩ := execWriterBurstDone_next h
  · exact queueKept_refl _
  · exact storeBurst_port b ks s p ▸ stored.queue p

/-- Settles O7: the three commands of one port keep the other port's queue, and every other command keeps both. -/
theorem completionEntriesStay : Obligations.CompletionEntriesStay := by
  unfold Obligations.CompletionEntriesStay
  intro c p s t run notPowerOn notHead notWindow notReset
  cases c with
  | powerOn => exact absurd rfl notPowerOn
  | calibrationSuccess => exact queueKept_calibrationSuccess run p
  | writerBurstDone ks => exact queueKept_writerBurstDone run p
  | completionHeadWrite q v => exact queueKept_of_base (base_execCompletionHeadWrite run) fun e => notHead v (by rw [e])
  | controlWindowWrite q off bs =>
    exact queueKept_of_base (base_execControlWindowWrite run) fun e => notWindow off bs (by rw [e])
  | portReset q => exact queueKept_of_base (base_execPortReset run) fun e => notReset (by rw [e])
  | _ => exact (sound_exec run (by simp) (by simp) (by simp) (by simp) (by simp) (by simp)).queue p

/-! ## An interrupt write error (R174) -/

/-- The state in which the message that met the error is no longer issued (log entry 29). -/
def messageAnswered (p : Port) (s : State) : State := modifyPort p (fun u => { u with messages := u.messages - 1 }) s

theorem told_messageAnswered (p : Port) (s : State) : Told s (messageAnswered p s) :=
  told_modifyPort (portKept_of rfl rfl rfl)

theorem exec_interruptWriteError_issued {p : Port} {s : State} (h : 0 < (s.port p).messages) :
    exec (.interruptWriteError p) s =
      .next (logFault (portFault p) .interruptWriteError (s.port p).irqAddr.toNat (messageAnswered p s)) :=
  congrArg Host.Outcome.next (if_pos h)

theorem exec_interruptWriteError_none {p : Port} {s : State} (h : (s.port p).messages = 0) :
    exec (.interruptWriteError p) s = .next s := congrArg Host.Outcome.next (if_neg (by omega))

/-- Settles O39: the message is no longer issued, and the fault report adds nothing but its entries and its record. -/
theorem interruptWriteErrorIsLogged : Obligations.InterruptWriteErrorIsLogged := by
  unfold Obligations.InterruptWriteErrorIsLogged
  intro p s
  have told := (told_messageAnswered p s).trans
    (told_logFault (portFault p) .interruptWriteError (s.port p).irqAddr.toNat _)
  have fault : FaultReported s _ (portFault p) .interruptWriteError (s.port p).irqAddr.toNat :=
    faultReported_congr (faultReported_logFault _ _ _ (messageAnswered p s)) (modifyPort_faults p _ s).symm rfl
  exact ⟨fun issued => ⟨_, exec_interruptWriteError_issued issued, fault, told.view, told.ports⟩,
    exec_interruptWriteError_none⟩

end Sys2Proof.Proofs
end

section
/-! PROOF. REQUEST_TAKE: the entry at the request head passed to its owning block, or refused and logged. -/

namespace Sys2Proof.Proofs

open Sys2Proof.Machine Sys2Proof.Laws

/-! ## The entry at the request head (R170) -/

/-- The state in which the entry at the request head has been read and counted, before it is checked. -/
def entryRead (p : Port) (s : State) : State :=
  countPort p (fun c => { c with requestsTaken := sat c.requestsTaken 1 })
    (modifyPort p (fun u => { u with reqHead := u.reqHead + 1 }) s)

theorem entryRead_port (p : Port) (s : State) :
    (entryRead p s).port p = { s.port p with reqHead := (s.port p).reqHead + 1 } := by
  unfold entryRead
  rw [countPort_port, modifyPort_port]

theorem queueKept_entryRead (p : Port) (s : State) : QueueKept (s.port p) ((entryRead p s).port p) := by
  rw [entryRead_port]
  exact queueKept_of rfl rfl rfl

theorem entryRead_counters (p : Port) (s : State) :
    ((entryRead p s).counters.port p).requestsTaken = sat (s.counters.port p).requestsTaken 1 := by
  unfold entryRead
  rw [countPort_counters_port, modifyPort_counters]

theorem entryRead_faults (p : Port) (s : State) : (entryRead p s).faults = s.faults := by
  unfold entryRead
  rw [countPort_faults, modifyPort_faults]

theorem sameBlocks_entryRead (p : Port) (s : State) : SameBlocks s (entryRead p s) :=
  sameBlocks_trans (sameBlocks_modifyPort p _ s) (sameBlocks_countPort p _ _)

theorem entryRead_passed (p : Port) (s : State) : (entryRead p s).passed = s.passed := by
  obtain ⟨-, -, -, -, -, -, -, -, -, -, passed, -⟩ := sameBlocks_iff.mp (sameBlocks_entryRead p s)
  exact passed

theorem entryRead_free (p : Port) (s : State) : ((entryRead p s).port p).free = (s.port p).free := by
  rw [entryRead_port]
  rfl

/-- The request of an entry that has passed the checks, in hand and passed to its owning block. -/
def requestPassed (p : Port) (entry : List Byte) (q : Request) (s : State) : State :=
  let tag := BitVec.ofNat 16 (fieldAt entry 2 2)
  let s1 := modifyPort p (fun u => { u with inHand := some { code := fieldAt entry 0 1, tag := tag } }) s
  { s1 with passed := s1.passed ++ [{ port := p, tag := tag, request := q, live := true }] }

theorem requestPassed_port (p : Port) (entry : List Byte) (q : Request) (s : State) :
    (requestPassed p entry q s).port p =
      { s.port p with inHand := some { code := fieldAt entry 0 1, tag := BitVec.ofNat 16 (fieldAt entry 2 2) } } :=
  modifyPort_port p _ s

theorem requestPassed_counters (p : Port) (entry : List Byte) (q : Request) (s : State) :
    (requestPassed p entry q s).counters = s.counters := modifyPort_counters p _ s

theorem requestPassed_faults (p : Port) (entry : List Byte) (q : Request) (s : State) :
    (requestPassed p entry q s).faults = s.faults := modifyPort_faults p _ s

theorem requestPassed_passed (p : Port) (entry : List Byte) (q : Request) (s : State) :
    (requestPassed p entry q s).passed =
      s.passed ++ [{ port := p, tag := BitVec.ofNat 16 (fieldAt entry 2 2), request := q, live := true }] := by
  unfold requestPassed
  dsimp only
  rw [modifyPort_passed]

/-! ## What every taking of an entry leaves (R170) -/

/-- The entry at the request head of port `p` has been taken. -/
structure EntryTaken (p : Port) (s t : State) : Prop where
  head : (t.port p).reqHead = (s.port p).reqHead + 1
  counted : (t.counters.port p).requestsTaken = sat (s.counters.port p).requestsTaken 1
  rest : SameBlocks { s with passed := t.passed } t

/-- A change of the passed requests after others that keep every block. -/
theorem sameBlocks_but_passed {s x t : State} (h : SameBlocks s x) (ht : t = { x with passed := t.passed }) :
    SameBlocks { s with passed := t.passed } t := by
  rw [ht]
  have e := congrArg (fun y : State => { y with passed := t.passed }) h
  exact e

theorem entryTaken_requestPassed (p : Port) (entry : List Byte) (q : Request) (s : State) :
    EntryTaken p s (requestPassed p entry q (entryRead p s)) where
  head := by rw [requestPassed_port, entryRead_port]
  counted := by rw [requestPassed_counters, entryRead_counters]
  rest := sameBlocks_but_passed (sameBlocks_trans (sameBlocks_entryRead p s) (sameBlocks_modifyPort p _ _)) rfl

theorem told_reqHead {s t : State} (h : Told s t) (p : Port) : (t.port p).reqHead = (s.port p).reqHead :=
  (congrArg PortUnit.reqHead (told_port h p) :)

theorem told_requestsTaken {s t : State} (h : Told s t) (p : Port) :
    (t.counters.port p).requestsTaken = (s.counters.port p).requestsTaken := by
  cases p
  · exact (congrArg (fun x : State => x.counters.port0.requestsTaken) h.view :)
  · exact (congrArg (fun x : State => x.counters.port1.requestsTaken) h.view :)

/-- Entries, notices and fault records added to the state of the reading leave the taking. -/
theorem entryTaken_of_told {p : Port} {s t : State} (told : Told (entryRead p s) t)
    (same : SameBlocks (entryRead p s) t) : EntryTaken p s t where
  head := by rw [told_reqHead told, entryRead_port]
  counted := by rw [told_requestsTaken told, entryRead_counters]
  rest := sameBlocks_but_passed (sameBlocks_trans (sameBlocks_entryRead p s) same) rfl

/-! ## An entry that the port unit refuses (R171) -/

/-- The completion of a refused entry. -/
def refusalOf (entry : List Byte) (st : Status) (detail : Nat) : Completion :=
  { code := fieldAt entry 0 1, tag := BitVec.ofNat 16 (fieldAt entry 2 2), status := st.code, detail := detail
    payload := [], generation := none }

/-- An entry taken from port `p` has been refused with completion `c`, and logged. -/
structure EntryRefused (p : Port) (c : Completion) (k : FaultKind) (faultDetail : Nat) (s t : State) : Prop where
  taken : EntryTaken p s t
  notPassed : t.passed = s.passed
  fault : FaultReported s t (portFault p) k faultDetail
  posted : Posted (s.port p) (t.port p) (completionSlot c t)

theorem completionSlot_same {s t : State} (h : SameBlocks s t) (c : Completion) :
    completionSlot c t = completionSlot c s := by
  obtain ⟨catalog, -, -, -, -, -, -, -, -, session, -⟩ := sameBlocks_iff.mp h
  exact slot_congr c (by rw [session]) (by rw [catalog])

theorem writeCompletion_free {p : Port} {s : State} (h : 0 < (s.port p).free) (c : Completion) :
    writeCompletion p c s = enqueue p (completionSlot c s) s := if_pos h

/-- The fault report of a refusal takes one completion slot at most, so that its completion finds one free. -/
theorem entryRefused_refuseEntry {p : Port} {s : State} (h : 8 < (s.port p).free) (entry : List Byte) (st : Status)
    (detail : Nat) (k : FaultKind) (faultDetail : Nat) :
    EntryRefused p (refusalOf entry st detail) k faultDetail s
      (refuseEntry p entry st detail k faultDetail (entryRead p s)) := by
  have logged := told_logFault (portFault p) k faultDetail (entryRead p s)
  have loggedSame := sameBlocks_logFault (portFault p) k faultDetail (entryRead p s)
  have fault := faultReported_logFault (portFault p) k faultDetail (entryRead p s)
  have free : 0 < ((logFault (portFault p) k faultDetail (entryRead p s)).port p).free := by
    have oneSlot := logFault_free (portFault p) k faultDetail (entryRead p s) p
    rw [entryRead_free] at oneSlot
    omega
  change EntryRefused p (refusalOf entry st detail) k faultDetail s
    (writeCompletion p (refusalOf entry st detail) (logFault (portFault p) k faultDetail (entryRead p s)))
  generalize logFault (portFault p) k faultDetail (entryRead p s) = x at *
  rw [writeCompletion_free free]
  have told := logged.trans (told_enqueue free (completionSlot (refusalOf entry st detail) x))
  have written := sameBlocks_enqueue p (completionSlot (refusalOf entry st detail) x) x
  have same := sameBlocks_trans loggedSame written
  refine ⟨entryTaken_of_told told same, ?notPassed, ?fault, ?posted⟩
  case notPassed =>
    obtain ⟨-, -, -, -, -, -, -, -, -, -, passed, -⟩ := sameBlocks_iff.mp same
    rw [passed, entryRead_passed]
  case fault => exact faultReported_congr fault (entryRead_faults p s).symm (enqueue_faults p _ x)
  case posted =>
    have entries : QueueKept (s.port p) (x.port p) :=
      queueKept_trans (queueKept_entryRead p s) (logged.ports p).queue
    rw [completionSlot_same written]
    exact posted_after entries (posted_enqueue free _)

/-! ## REQUEST_TAKE (R170, R171) -/

theorem canTake_iff {u : PortUnit} :
    u.canTake = true ↔ u.reqHead ≠ u.reqTail ∧ 8 < u.free ∧ u.inHand = none ∧ u.held = none := by
  simp only [PortUnit.canTake, Bool.and_eq_true, decide_eq_true_eq, Option.isNone_iff_eq_none, and_assoc]

theorem exec_requestTake_takes {p : Port} {s : State} (h : (s.port p).canTake = true) :
    exec (.requestTake p) s = .next (takeRequest p s) := congrArg Host.Outcome.next (if_pos h)

theorem exec_requestTake_waits {p : Port} {s : State} (h : ¬ (s.port p).canTake = true) :
    exec (.requestTake p) s = .next s := congrArg Host.Outcome.next (if_neg h)

/-- The entry at the request head. -/
def headEntry (u : PortUnit) : List Byte := u.reqSlots.get u.reqHead

/-- The taking of an entry, by what the checks of R171 say of it. -/
theorem takeRequest_eq (p : Port) (s : State) :
    takeRequest p s =
      match checkEntry (headEntry (s.port p)) with
      | .unknown =>
        refuseEntry p (headEntry (s.port p)) .unknownRequest 0 .unknownRequest (fieldAt (headEntry (s.port p)) 0 1)
          (entryRead p s)
      | .malformed off => refuseEntry p (headEntry (s.port p)) .malformed off .malformed off (entryRead p s)
      | .request q => requestPassed p (headEntry (s.port p)) q (entryRead p s) := rfl

section
variable {p : Port} {s : State}

theorem takeRequest_request {q : Request} (h : checkEntry (headEntry (s.port p)) = .request q) :
    takeRequest p s = requestPassed p (headEntry (s.port p)) q (entryRead p s) := by
  rw [takeRequest_eq, h]

theorem entryRefused_unknown (free : 8 < (s.port p).free) (h : checkEntry (headEntry (s.port p)) = .unknown) :
    EntryRefused p (refusalOf (headEntry (s.port p)) .unknownRequest 0) .unknownRequest
      (fieldAt (headEntry (s.port p)) 0 1) s (takeRequest p s) := by
  rw [takeRequest_eq, h]
  exact entryRefused_refuseEntry free _ _ _ _ _

theorem entryRefused_malformed {off : Nat} (free : 8 < (s.port p).free)
    (h : checkEntry (headEntry (s.port p)) = .malformed off) :
    EntryRefused p (refusalOf (headEntry (s.port p)) .malformed off) .malformed off s (takeRequest p s) := by
  rw [takeRequest_eq, h]
  exact entryRefused_refuseEntry free _ _ _ _ _

theorem entryTaken_takeRequest (free : 8 < (s.port p).free) : EntryTaken p s (takeRequest p s) := by
  cases h : checkEntry (headEntry (s.port p)) with
  | unknown => exact (entryRefused_unknown free h).taken
  | malformed off => exact (entryRefused_malformed free h).taken
  | request q =>
    rw [takeRequest_request h]
    exact entryTaken_requestPassed p _ q s

end

/-- Settles O35: every taken entry advances the head and is counted; a sound one is passed, any other refused and logged. -/
theorem requestIsTaken : Obligations.RequestIsTaken := by
  unfold Obligations.RequestIsTaken
  refine fun p s => ⟨fun notEmpty free notInHand notHeld => ?takes, fun cannot => exec_requestTake_waits ?waits⟩
  case takes =>
    have taken := entryTaken_takeRequest free
    refine ⟨takeRequest p s, exec_requestTake_takes (canTake_iff.mpr ⟨notEmpty, free, notInHand, notHeld⟩), taken.head,
      taken.counted, fun q sound => ?request, fun unknown => ?unknown, fun off malformed => ?malformed, taken.rest⟩
    case request =>
      rw [takeRequest_request sound, requestPassed_port, requestPassed_passed, requestPassed_faults, entryRead_passed,
        entryRead_faults]
      exact ⟨rfl, rfl, rfl⟩
    case unknown =>
      have refused := entryRefused_unknown free unknown
      exact ⟨refused.notPassed, refused.fault, refused.posted⟩
    case malformed =>
      have refused := entryRefused_malformed free malformed
      exact ⟨refused.notPassed, refused.fault, refused.posted⟩
  case waits =>
    rw [canTake_iff]
    rintro ⟨notEmpty, free, notInHand, notHeld⟩
    obtain empty | few | inHand | held := cannot
    · exact notEmpty empty
    · omega
    · exact inHand notInHand
    · exact held notHeld

end Sys2Proof.Proofs
end

section
/-! PROOF. Writes of the registers of a port: violations, the request tail, the port control and the port status. -/

namespace Sys2Proof.Proofs

open Sys2Proof.Machine Sys2Proof.Laws

/-! ## What a write of a register leaves (R169) -/

/-- A write has left port `p` as unit `u`, but for entries, notices, interrupt messages and link output, and has changed
nothing else but what the archive engine then does. -/
structure PortWritten (p : Port) (u : PortUnit) (s t : State) : Prop where
  port : PortKept u (t.port p)
  otherPort : PortKept (s.port p.other) (t.port p.other)
  apart : t.apartFromArchive = s.apartFromArchive

theorem modifyPort_otherPort (p : Port) (f : PortUnit → PortUnit) (s : State) :
    (modifyPort p f s).port p.other = s.port p.other := by
  rw [modifyPort_port_ite, if_neg (port_other_ne p)]

theorem modifyPort_apartFromArchive (p : Port) (f : PortUnit → PortUnit) (s : State) :
    (modifyPort p f s).apartFromArchive = s.apartFromArchive := by
  cases p <;> rfl

theorem portWritten_modifyPort (p : Port) (f : PortUnit → PortUnit) (s : State) :
    PortWritten p (f (s.port p)) s (modifyPort p f s) where
  port := by
    rw [modifyPort_port]
    exact portKept_refl _
  otherPort := by
    rw [modifyPort_otherPort]
    exact portKept_refl _
  apart := modifyPort_apartFromArchive p f s

section
variable {p : Port} {u : PortUnit} {s t x : State}

theorem PortWritten.eng (h : PortWritten p u s t) (e : Eng t x) : PortWritten p u s x :=
  ⟨portKept_trans h.port (e.ports p), portKept_trans h.otherPort (e.ports p.other), e.view.trans h.apart⟩

/-- The end of a write that is no violation. -/
theorem PortWritten.finished (h : PortWritten p u s t) (off : Nat) : PortWritten p u s (finishWrite p off (false, t)) :=
  h.eng (eng_ackControl p off t)

end

/-! ## Violations (R169) -/

/-- A write violation is counted. -/
def countViolation (c : PortCounters) : PortCounters := { c with writeViolations := sat c.writeViolations 1 }

/-- The write-violation flag is set. -/
def flagViolation (u : PortUnit) : PortUnit := { u with writeViolation := true }

theorem portKept_flagViolation {u v : PortUnit} (h : PortKept u v) : PortKept (flagViolation u) (flagViolation v) where
  rest := (congrArg flagViolation h.rest :)
  queue := ⟨h.queue.head, h.queue.more, h.queue.same⟩

theorem countViolation_apartFromArchive (p : Port) (s : State) :
    (countPort p countViolation s).apartFromArchive = countPort p countViolation s.apartFromArchive := by
  cases p <;> rfl

theorem apartFromArchive_of_notices {s t : State} (h : t.apartFromNotices = s.apartFromNotices) :
    t.apartFromArchive = s.apartFromArchive := by
  simp only [State.apartFromArchive, State.apartFromEntries, h]

/-- A violation of port `p`: a write has moved nothing, but for what its acts added before the report. -/
theorem portWritten_violation {s x : State} (p : Port) (off : Nat) (told : Told s x) :
    PortWritten p (flagViolation (s.port p)) (countPort p countViolation s) (finishWrite p off (true, x)) := by
  have noted : ErrorNoted p flagViolation countViolation .controlWrite off x (controlViolation p off x) :=
    errorNoted p flagViolation countViolation .controlWrite off x
  have written : PortWritten p (flagViolation (s.port p)) (countPort p countViolation s) (controlViolation p off x) := by
    refine ⟨portKept_trans (portKept_flagViolation (told.ports p)) noted.port, ?other, ?apart⟩
    case other =>
      rw [countPort_port]
      exact portKept_trans (told.ports p.other) noted.otherPort
    case apart =>
      rw [apartFromArchive_of_notices noted.apart, countViolation_apartFromArchive, (Told.eng told).view,
        countViolation_apartFromArchive]
  exact written.eng (eng_ackControl p off _)

/-! ## The request tail, the port control and the port status (R169, R187) -/

theorem writeRequestTail_legal (p : Port) {v : Nat} (h : v < 32) (s : State) :
    writeRequestTail p v s = (false, modifyPort p (fun u => { u with reqTail := ⟨v, h⟩ }) s) := dif_pos h

theorem writeRequestTail_illegal (p : Port) {v : Nat} (h : ¬ v < 32) (s : State) :
    writeRequestTail p v s = (true, s) := dif_neg h

/-- The enables of a port control value (R187). -/
def withEnables (v : BitVec 32) (u : PortUnit) : PortUnit :=
  { u with irqEnable := v.getLsbD 0, writeErrorEnable := v.getLsbD 1, conflictErrorEnable := v.getLsbD 2 }

theorem writePortControl_eq (p : Port) (v : BitVec 32) (s : State) :
    writePortControl p v.toNat s =
      if v.getLsbD 0 then interruptIfEntries p (modifyPort p (withEnables v) s) else modifyPort p (withEnables v) s := by
  unfold writePortControl withEnables
  simp only [natBit_getLsbD]

theorem portWritten_writePortControl (p : Port) (v : BitVec 32) (s : State) :
    PortWritten p (withEnables v (s.port p)) s (writePortControl p v.toNat s) := by
  have written := portWritten_modifyPort p (withEnables v) s
  rw [writePortControl_eq]
  split
  · exact written.eng (Told.eng (told_interruptIfEntries p _))
  · exact written

/-- The flags of a port status value cleared (R187). -/
def clearFlags (v : BitVec 32) (u : PortUnit) : PortUnit :=
  { u with
    unmappedRead := u.unmappedRead && !v.getLsbD 0
    writeViolation := u.writeViolation && !v.getLsbD 1
    decodeConflict := u.decodeConflict && !v.getLsbD 2
    readTimeout := u.readTimeout && !v.getLsbD 3
    noticesMissed := u.noticesMissed && !v.getLsbD 4 }

theorem writePortStatus_eq (p : Port) (v : BitVec 32) (s : State) :
    writePortStatus p v.toNat s = modifyPort p (clearFlags v) s := by
  unfold writePortStatus clearFlags
  simp only [natBit_getLsbD]

/-- Settles O36: a legal tail, the control and the status change the port unit alone; an illegal tail is a violation. -/
theorem portRegistersAreWritten : Obligations.PortRegistersAreWritten := by
  unfold Obligations.PortRegistersAreWritten
  refine fun p v s => ⟨fun legal => ⟨_, rfl, ?tail⟩, fun illegal => ⟨_, rfl, ?violation⟩, ⟨_, rfl, ?control⟩,
    ⟨_, rfl, ?status⟩⟩
  case tail =>
    rw [writeRequestTail_legal p legal]
    obtain ⟨port, otherPort, apart⟩ := (portWritten_modifyPort p _ s).finished 0
    exact ⟨port, otherPort, apart⟩
  case violation =>
    rw [writeRequestTail_illegal p (not_lt.mpr illegal)]
    obtain ⟨port, otherPort, apart⟩ := portWritten_violation p 0 (Rel.refl s)
    rw [countPort_port] at otherPort
    exact ⟨port, otherPort, apart⟩
  case control =>
    obtain ⟨port, otherPort, apart⟩ := (portWritten_writePortControl p v s).finished 0x0010
    exact ⟨port, otherPort, apart⟩
  case status =>
    rw [writePortStatus_eq]
    obtain ⟨port, otherPort, apart⟩ := (portWritten_modifyPort p (clearFlags v) s).finished 0x0014
    exact ⟨portKept_trans (portKept_of (v := clearFlags v (s.port p)) rfl rfl rfl) port, otherPort, apart⟩

end Sys2Proof.Proofs
end

section
/-! PROOF. COMPLETION_HEAD_WRITE: the head moved and a held completion written, or a violation. -/

namespace Sys2Proof.Proofs

open Sys2Proof.Machine Sys2Proof.Laws

/-! ## The held completion (R172) -/

theorem releaseHeld_none {p : Port} {s : State} (h : (s.port p).held = none) : releaseHeld p s = s := by
  unfold releaseHeld
  rw [h]

theorem releaseHeld_full {p : Port} {s : State} (h : ¬ 0 < (s.port p).free) : releaseHeld p s = s := by
  unfold releaseHeld
  cases (s.port p).held with
  | none => rfl
  | some c => exact if_neg h

theorem releaseHeld_some {p : Port} {s : State} {c : Completion} (h : (s.port p).held = some c)
    (free : 0 < (s.port p).free) :
    releaseHeld p s = enqueue p (completionSlot c s) (modifyPort p (fun u => { u with held := none }) s) := by
  unfold releaseHeld
  rw [h]
  exact if_pos free

theorem portKept_held {u v : PortUnit} (h : PortKept u v) : v.held = u.held := (congrArg PortUnit.held h.rest :)

/-- The held completion of port `p` has been written where a slot is free. Nothing else but entries, notices, interrupt
messages and link output has joined the port units, and nothing has changed but what the archive engine then does. -/
structure HeldReleased (p : Port) (s t : State) : Prop where
  port : PortKept { s.port p with held := (t.port p).held } (t.port p)
  empty : (s.port p).held = none → (t.port p).held = none
  written : ∀ c, (s.port p).held = some c → 0 < (s.port p).free →
    (t.port p).held = none ∧ Posted (s.port p) (t.port p) (completionSlot c t)
  otherPort : PortKept (s.port p.other) (t.port p.other)
  apart : t.apartFromArchive = s.apartFromArchive

theorem heldReleased_unchanged {p : Port} {s : State} (h : (s.port p).held = none ∨ ¬ 0 < (s.port p).free) :
    HeldReleased p s s where
  port := portKept_refl _
  empty := id
  written := fun c held free => by
    obtain empty | full := h
    · rw [empty] at held
      cases held
    · exact absurd free full
  otherPort := portKept_refl _
  apart := rfl

theorem heldReleased_written {p : Port} {s : State} {c : Completion} (held : (s.port p).held = some c)
    (free : 0 < (s.port p).free) :
    HeldReleased p s (enqueue p (completionSlot c s) (modifyPort p (fun u => { u with held := none }) s)) := by
  have moved := portWritten_modifyPort p (fun u => { u with held := none }) s
  have port := modifyPort_port p (fun u => { u with held := none }) s
  have same := sameBlocks_modifyPort p (fun u => { u with held := none }) s
  generalize modifyPort p (fun u => { u with held := none }) s = x at *
  have freed : 0 < (x.port p).free := by
    rw [port]
    exact free
  have told := told_enqueue freed (completionSlot c s)
  have posted := posted_enqueue freed (completionSlot c s)
  have slot := completionSlot_same (sameBlocks_trans same (sameBlocks_enqueue p (completionSlot c s) x)) c
  generalize enqueue p (completionSlot c s) x = t at *
  obtain ⟨kept, otherPort, apart⟩ := moved.eng (Told.eng told)
  have empty : (t.port p).held = none := portKept_held kept
  refine ⟨?port, fun _ => empty, fun d some _ => ⟨empty, ?posted⟩, otherPort, apart⟩
  case port =>
    rw [empty]
    exact kept
  case posted =>
    rw [held] at some
    cases some
    rw [slot]
    rw [port] at posted
    exact posted

theorem heldReleased_releaseHeld (p : Port) (s : State) : HeldReleased p s (releaseHeld p s) := by
  by_cases free : 0 < (s.port p).free
  case neg =>
    rw [releaseHeld_full free]
    exact heldReleased_unchanged (.inr free)
  cases held : (s.port p).held with
  | none =>
    rw [releaseHeld_none held]
    exact heldReleased_unchanged (.inl held)
  | some c =>
    rw [releaseHeld_some held free]
    exact heldReleased_written held free

theorem HeldReleased.eng {p : Port} {s t x : State} (h : HeldReleased p s t) (e : Eng t x) : HeldReleased p s x := by
  have held := portKept_held (e.ports p)
  obtain ⟨generation, epoch⟩ := cap_generation (Eng.cap e)
  refine ⟨?_, fun empty => ?_, fun c some free => ?_, portKept_trans h.otherPort (e.ports p.other), e.view.trans h.apart⟩
  · rw [held]
    exact portKept_trans h.port (e.ports p)
  · rw [held]
    exact h.empty empty
  · obtain ⟨empty, posted⟩ := h.written c some free
    rw [held, slot_congr c generation epoch]
    exact ⟨empty, posted_mono posted (e.ports p).queue⟩

/-! ## The completion head (R169, R172) -/

/-- Interrupt outstanding cleared, as by every write of the completion head (R174). -/
def clearOutstanding (u : PortUnit) : PortUnit := { u with irqOutstanding := false }

theorem told_clearOutstanding (p : Port) (s : State) : Told s (modifyPort p clearOutstanding s) :=
  told_modifyPort (portKept_of rfl rfl rfl)

/-- The completion head moved to `v`. -/
def moveHead (v : Fin 64) (u : PortUnit) : PortUnit := { u with cplHead := v }

/-- The state in which a legal value has moved the head. -/
def headMoved (p : Port) (v : Fin 64) (s : State) : State := modifyPort p (moveHead v) (modifyPort p clearOutstanding s)

theorem headMoved_port (p : Port) (v : Fin 64) (s : State) :
    (headMoved p v s).port p = moveHead v (clearOutstanding (s.port p)) := by
  unfold headMoved
  rw [modifyPort_port, modifyPort_port]

theorem headMoved_otherPort (p : Port) (v : Fin 64) (s : State) : (headMoved p v s).port p.other = s.port p.other := by
  unfold headMoved
  rw [modifyPort_otherPort, modifyPort_otherPort]

theorem headMoved_apart (p : Port) (v : Fin 64) (s : State) : (headMoved p v s).apartFromArchive = s.apartFromArchive := by
  unfold headMoved
  rw [modifyPort_apartFromArchive, modifyPort_apartFromArchive]

theorem pastTail_iff {u : PortUnit} {v : Fin 64} : u.pastTail v = true ↔ u.entries < (v - u.cplHead).val :=
  decide_eq_true_iff

theorem writeCompletionHead_legal {p : Port} {v : Nat} {s : State} (hv : v < 64)
    (h : ((⟨v, hv⟩ : Fin 64) - (s.port p).cplHead).val ≤ (s.port p).entries) :
    writeCompletionHead p v s = (false, interruptIfEntries p (slotsFreed p (headMoved p ⟨v, hv⟩ s))) := by
  have legal : ¬ ((modifyPort p clearOutstanding s).port p).pastTail ⟨v, hv⟩ = true := by
    rw [pastTail_iff, modifyPort_port]
    exact not_lt.mpr h
  exact (dif_pos hv).trans (if_neg legal)

theorem writeCompletionHead_illegal {p : Port} {v : Nat} {s : State}
    (h : ∀ hv : v < 64, (s.port p).entries < ((⟨v, hv⟩ : Fin 64) - (s.port p).cplHead).val) :
    writeCompletionHead p v s = (true, interruptIfEntries p (modifyPort p clearOutstanding s)) := by
  by_cases hv : v < 64
  · have illegal : ((modifyPort p clearOutstanding s).port p).pastTail ⟨v, hv⟩ = true := by
      rw [pastTail_iff, modifyPort_port]
      exact h hv
    exact (dif_pos hv).trans (if_pos illegal)
  · exact dif_neg hv

/-- A legal value moves the head, and what follows the freed slots begins with the held completion. -/
theorem heldReleased_completionHead {p : Port} {v : Nat} {s : State} (hv : v < 64)
    (h : ((⟨v, hv⟩ : Fin 64) - (s.port p).cplHead).val ≤ (s.port p).entries) (off : Nat) :
    HeldReleased p (headMoved p ⟨v, hv⟩ s) (finishWrite p off (writeCompletionHead p v s)) := by
  rw [writeCompletionHead_legal hv h]
  have freed := (eng_slotsFreed p (headMoved p ⟨v, hv⟩ s)).trans (Told.eng (told_interruptIfEntries p _))
  exact (heldReleased_releaseHeld p _).eng (freed.trans (eng_ackControl p off _))

/-- Settles O37: a legal value moves the head and the held completion takes a freed slot; any other is a violation. -/
theorem completionHeadIsWritten : Obligations.CompletionHeadIsWritten := by
  unfold Obligations.CompletionHeadIsWritten
  refine fun p v s => ⟨fun hv legal => ⟨_, rfl, ?moved⟩, fun illegal => ⟨_, rfl, ?violation⟩⟩
  case moved =>
    obtain ⟨port, empty, written, otherPort, apart⟩ := heldReleased_completionHead hv legal 0x0008
    rw [headMoved_port] at port empty written
    rw [headMoved_otherPort] at otherPort
    rw [headMoved_apart] at apart
    have queue : QueueKept (moveHead ⟨v.toNat, hv⟩ (s.port p)) _ := ⟨port.queue.head, port.queue.more, port.queue.same⟩
    exact ⟨port.queue.head, queue, port.rest, empty, written, otherPort, apart⟩
  case violation =>
    rw [writeCompletionHead_illegal illegal]
    obtain ⟨port, otherPort, apart⟩ := portWritten_violation p 0x0008
      ((told_clearOutstanding p s).trans (told_interruptIfEntries p _))
    rw [countPort_port] at otherPort
    exact ⟨port, otherPort, apart⟩

end Sys2Proof.Proofs
end

section
/-! PROOF. CONTROL_WINDOW_WRITE of one whole register and of one whole request slot. -/

namespace Sys2Proof.Proofs

open Sys2Proof.Machine Sys2Proof.Laws

/-! ## The registers that a write touches (R169, R187) -/

/-- The bytes of a write at `off` of length `n` lie outside register `r`. -/
abbrev Untouched (off n : Nat) (r : Nat × Nat) : Prop := r.1 + r.2 ≤ off ∨ off + n ≤ r.1

theorem writeOverlap_untouched {p : Port} {off : Nat} {bytes : List Byte} {r : Nat × Nat}
    (h : Untouched off bytes.length r) (acc : Bool × State) : writeOverlap p off bytes acc r = acc := if_pos h

theorem foldl_writeOverlap_untouched {p : Port} {off : Nat} {bytes : List Byte} {rs : List (Nat × Nat)}
    (h : ∀ r ∈ rs, Untouched off bytes.length r) (acc : Bool × State) :
    rs.foldl (writeOverlap p off bytes) acc = acc := by
  induction rs with
  | nil => rfl
  | cons r rs ih =>
    rw [List.foldl_cons, writeOverlap_untouched (h r List.mem_cons_self)]
    exact ih fun x hx => h x (List.mem_cons_of_mem r hx)

theorem writeOverlap_whole {p : Port} {bytes : List Byte} {r : Nat × Nat} (hn : bytes.length = r.2) (h0 : 0 < r.2)
    (s : State) : writeOverlap p r.1 bytes (false, s) r = writeRegister p r.1 (leValue bytes) s := by
  rw [writeOverlap, if_neg (by omega), if_pos (by omega), Nat.sub_self, fieldAt_whole bytes r.2 hn]
  exact Prod.ext (Bool.false_or _) rfl

theorem register_bounds : ∀ r ∈ controlRegisters, 0 < r.2 ∧ r.1 + r.2 ≤ 0x28 := by decide

theorem deadOffset_register {r : Nat × Nat} (hr : r ∈ controlRegisters) {o : Nat} (h₁ : r.1 ≤ o) (h₂ : o < r.1 + r.2) :
    deadOffset o = false := by
  have covered : controlRegisters.any (fun x => decide (x.1 ≤ o) && decide (o < x.1 + x.2)) = true :=
    List.any_eq_true.mpr ⟨r, hr, by simp [h₁, h₂]⟩
  rw [deadOffset, covered, Bool.not_true, Bool.and_false]

theorem inRequestSlots_low {o : Nat} (h : o < 0x1000) : inRequestSlots o = false := by
  simp [inRequestSlots, h]

theorem inRequestSlots_slot {i : Fin 32} {o : Nat} (h₁ : 0x1000 + 64 * i.val ≤ o) (h₂ : o < 0x1000 + 64 * i.val + 64) :
    inRequestSlots o = true := by
  simp only [inRequestSlots, Bool.and_eq_true, decide_eq_true_eq]
  omega

/-- A write that covers no dead offset, by what the registers make of it. -/
theorem writeControl_of_live {p : Port} {off : Nat} {bytes : List Byte} {s : State} {r : Bool × State}
    (acted : controlRegisters.foldl (writeOverlap p off bytes) (false, s) = r)
    (live : ∀ o, off ≤ o → o < off + bytes.length → deadOffset o = false) :
    writeControl p off bytes s = (r.1, writeSlots p off bytes r.2) := by
  unfold writeControl
  dsimp only
  rw [acted, no_deadOffset _ _ live, Bool.or_false]

/-- A write that is register `r`, which stands between the registers `below` and `above`. -/
theorem writeControl_register {p : Port} {bytes : List Byte} {r : Nat × Nat} {below above : List (Nat × Nat)}
    (split : controlRegisters = below ++ r :: above) (hb : ∀ x ∈ below, Untouched r.1 r.2 x)
    (ha : ∀ x ∈ above, Untouched r.1 r.2 x) (hn : bytes.length = r.2) (s : State) :
    writeControl p r.1 bytes s = writeRegister p r.1 (leValue bytes) s := by
  have member : r ∈ controlRegisters := split ▸ List.mem_append_right below List.mem_cons_self
  obtain ⟨nonempty, low⟩ := register_bounds r member
  have acted : controlRegisters.foldl (writeOverlap p r.1 bytes) (false, s) = writeRegister p r.1 (leValue bytes) s := by
    rw [split, List.foldl_append, List.foldl_cons, foldl_writeOverlap_untouched (rs := below) (hn ▸ hb),
      writeOverlap_whole hn nonempty, foldl_writeOverlap_untouched (rs := above) (hn ▸ ha)]
  rw [writeControl_of_live acted fun o h₁ h₂ => deadOffset_register member h₁ (hn ▸ h₂),
    writeSlots_outside p bytes r.1 _ fun o _ _ => inRequestSlots_low (by omega)]

theorem writeControl_irqData {p : Port} {bytes : List Byte} (hn : bytes.length = 4) (s : State) :
    writeControl p 0x18 bytes s =
      (false, modifyPort p (fun u => { u with irqData := BitVec.ofNat 32 (leValue bytes) }) s) :=
  writeControl_register (r := (0x18, 4)) (below := controlRegisters.take 6) (above := [(0x20, 8)]) rfl
    (by decide) (by decide) hn s

theorem writeControl_irqAddr {p : Port} {bytes : List Byte} (hn : bytes.length = 8) (s : State) :
    writeControl p 0x20 bytes s =
      (false, modifyPort p (fun u => { u with irqAddr := BitVec.ofNat 64 (leValue bytes) }) s) :=
  writeControl_register (r := (0x20, 8)) (below := controlRegisters.take 7) (above := []) rfl
    (by decide) (by decide) hn s

/-! ## A whole request slot (R169, R187) -/

theorem deadOffset_slot {i : Fin 32} {o : Nat} (h₁ : 0x1000 + 64 * i.val ≤ o) (h₂ : o < 0x1000 + 64 * i.val + 64) :
    deadOffset o = false := by
  rw [deadOffset, inRequestSlots_slot h₁ h₂, Bool.not_true, Bool.false_and]

theorem writeControl_slot {p : Port} {i : Fin 32} {bytes : List Byte} {s : State} (hn : bytes.length = 64)
    (hs : ((s.port p).reqSlots.get i).length = 64) :
    writeControl p (0x1000 + 64 * i.val) bytes s =
      (false, modifyPort p (fun u => { u with reqSlots := u.reqSlots.set i.val bytes i.isLt }) s) := by
  have acted : controlRegisters.foldl (writeOverlap p (0x1000 + 64 * i.val) bytes) (false, s) = (false, s) :=
    foldl_writeOverlap_untouched (fun r hr => .inl (by have := register_bounds r hr; omega)) _
  have slots := writeSlots_inside p i bytes 0 s _ (by omega) rfl hs
  rw [List.take_zero, List.nil_append, Nat.zero_add, Nat.add_zero, hn, List.drop_of_length_le hs.le,
    List.append_nil] at slots
  rw [writeControl_of_live acted fun o h₁ h₂ => deadOffset_slot h₁ (hn ▸ h₂), slots]

/-! ## CONTROL_WINDOW_WRITE -/

theorem exec_controlWindowWrite {p : Port} {off : Nat} {bytes : List Byte} (h₁ : 1 ≤ bytes.length)
    (h₂ : bytes.length ≤ 256) (s : State) :
    exec (.controlWindowWrite p off bytes) s = .next (finishWrite p off (writeControl p off bytes s)) :=
  if_pos (by simp only [linkLength, Bool.and_eq_true, decide_eq_true_eq]; exact ⟨h₁, h₂⟩)

/-- A write that only changes the port unit by `f`. -/
theorem portWritten_controlWindow {p : Port} {off : Nat} {bytes : List Byte} {f : PortUnit → PortUnit} {s : State}
    (h₁ : 1 ≤ bytes.length) (h₂ : bytes.length ≤ 256) (acts : writeControl p off bytes s = (false, modifyPort p f s)) :
    ∃ t, exec (.controlWindowWrite p off bytes) s = .next t ∧ PortWritten p (f (s.port p)) s t := by
  refine ⟨_, exec_controlWindowWrite h₁ h₂ s, ?_⟩
  rw [acts]
  exact (portWritten_modifyPort p f s).finished off

/-- Settles O38: each of the three writes changes one field of the port unit, and no byte of it is a violation. -/
theorem controlWindowIsWritten : Obligations.ControlWindowIsWritten := by
  unfold Obligations.ControlWindowIsWritten
  refine fun p i bytes s => ⟨fun length slot => ?slot, fun length => ?data, fun length => ?address⟩
  case slot =>
    obtain ⟨t, run, port, otherPort, apart⟩ :=
      portWritten_controlWindow (by omega) (by omega) (writeControl_slot length slot)
    exact ⟨t, run, port, otherPort, apart⟩
  case data =>
    obtain ⟨t, run, port, otherPort, apart⟩ :=
      portWritten_controlWindow (by omega) (by omega) (writeControl_irqData (p := p) length s)
    exact ⟨t, run, port, otherPort, apart⟩
  case address =>
    obtain ⟨t, run, port, otherPort, apart⟩ :=
      portWritten_controlWindow (by omega) (by omega) (writeControl_irqAddr (p := p) length s)
    exact ⟨t, run, port, otherPort, apart⟩

end Sys2Proof.Proofs
end

section
/-! PROOF. The counters and the fault records: a fault report, READ_COUNTERS, CLEAR_FAULTS and SET_FAULT_ENABLE. -/

namespace Sys2Proof.Proofs

open Sys2Proof.Machine Sys2Proof.Laws

/-! ## The three cases of a fault report (R183) -/

theorem logFault_disabled {u : FaultUnit} {k : FaultKind} {s : State} (off : s.faults.enabled u k = false) (d : Nat) :
    logFault u k d s = s := if_neg (by rw [off]; exact Bool.false_ne_true)

theorem logFault_later {u : FaultUnit} {k : FaultKind} {s : State} (on : s.faults.enabled u k = true)
    (valid : (s.faults.records.get u.idx).valid = true) (d : Nat) :
    logFault u k d s = setFaultRecord u { s.faults.records.get u.idx with overflow := true } s := by
  unfold logFault
  rw [if_pos on]
  exact if_pos valid

/-- The payload of FAULT_LOGGED (R191). -/
def faultLoggedFields (u : FaultUnit) (k : FaultKind) (d : Nat) (f : Faults) : List Field :=
  [⟨0, 1, u.idx.val⟩, ⟨1, 1, k.code⟩, ⟨8, 8, d⟩, ⟨16, 8, f.newest⟩]

/-- The record that the first fault fills. -/
def firstFault (k : FaultKind) (d : Nat) (f : Faults) : FaultRecord :=
  { valid := true, overflow := false, kind := k.code, detail := BitVec.ofNat 64 d, frame := f.newest }

theorem logFault_first {u : FaultUnit} {k : FaultKind} {s : State} (on : s.faults.enabled u k = true)
    (clear : (s.faults.records.get u.idx).valid = false) (d : Nat) :
    logFault u k d s =
      notifyBoth .faultLogged (faultLoggedFields u k d s.faults) (setFaultRecord u (firstFault k d s.faults) s) := by
  unfold logFault
  rw [if_pos on]
  exact if_neg (by rw [clear]; exact Bool.false_ne_true)

/-- Settles O60: the enable and the record's validity choose between nothing, a noted overflow, and a filled record
whose notice goes to both ports. -/
theorem faultIsReported : Obligations.FaultIsReported := by
  unfold Obligations.FaultIsReported
  intro u k d s
  refine ⟨faultReported_logFault u k d s, sameBlocks_logFault u k d s, fun off => logFault_disabled off d,
    fun on valid p => ?later, fun on clear p => ?first⟩
  case later => rw [logFault_later on valid, setFaultRecord_port]
  case first =>
    rw [logFault_first on clear]
    exact notified_congr (notified_notifyBoth _ _ _ p) (setFaultRecord_port _ _ s p).symm rfl rfl

/-! ## What an answer leaves after a change of its own -/

/-- An answer after a change of port units, counters and fault records. -/
theorem sameBlocks_answered {s u : State} (h : SameBlocks s u) (r : Passed) (st : Status) (d : Nat) (pay : List Field) :
    SameBlocks s (answer r st d pay u) := sameBlocks_trans h (sameBlocks_answer r st d pay u)

/-! ## SET_FAULT_ENABLE (R186) -/

theorem exec_setFaultEnable {s : State} {p : Port} {r : Passed} {u : Nat} {mask : BitVec 8} (h : Waits s p 0x2B r)
    (hr : r.request = .setFaultEnable u mask) :
    exec (.setFaultEnable p) s = .next (setFaultEnable r u mask (s.without p 0x2B)) := by
  show execSetFaultEnable p s = _
  unfold execSetFaultEnable
  rw [takePassed_of h.oldest]
  dsimp only
  rw [hr]

/-- The kinds of the six units by their numbers (R182, R188); no other number has any. -/
theorem unitKinds_eq (u : Nat) : unitKinds u = [3, 4, 2, 5, 8, 8].getD u 0 := by
  match u with
  | 0 | 1 | 2 | 3 | 4 | 5 => rfl
  | _ + 6 => rfl

/-- The state whose mask of unit `u` is `mask`. -/
def setMask (u : Fin 6) (mask : BitVec 8) (s : State) : State :=
  { s with faults := { s.faults with masks := s.faults.masks.set u.val mask u.isLt } }

theorem setMask_self (u : Fin 6) (mask : BitVec 8) (s : State) : (setMask u mask s).faults.masks.get u = mask :=
  Vector.getElem_set_self u.isLt

theorem setMask_other {u v : Fin 6} (h : v ≠ u) (mask : BitVec 8) (s : State) :
    (setMask u mask s).faults.masks.get v = s.faults.masks.get v :=
  Vector.getElem_set_ne u.isLt v.isLt fun e => h (Fin.ext e.symm)

theorem setMask_port (u : Fin 6) (mask : BitVec 8) (s : State) (q : Port) : (setMask u mask s).port q = s.port q := by
  cases q <;> rfl

theorem sameBlocks_setMask (u : Fin 6) (mask : BitVec 8) (s : State) : SameBlocks s (setMask u mask s) := rfl

theorem setFaultEnable_refused {u : Nat} {mask : BitVec 8} (r : Passed) (s : State)
    (h : 6 ≤ u ∨ 2 ^ unitKinds u ≤ mask.toNat) : setFaultEnable r u mask s = answer r .range 0 [] s := by
  unfold setFaultEnable
  split
  · next known => exact if_neg (Nat.not_lt.mpr (h.resolve_left (Nat.not_le.mpr known)))
  · rfl

theorem setFaultEnable_accepted {u : Fin 6} {mask : BitVec 8} (r : Passed) (s : State)
    (h : mask.toNat < 2 ^ unitKinds u) :
    setFaultEnable r u mask s =
      answer r .ok 0 [⟨0, 1, (s.faults.masks.get u).toNat⟩, ⟨1, 1, mask.toNat⟩] (setMask u mask s) := by
  unfold setFaultEnable
  rw [dif_pos u.isLt, if_pos h]
  rfl

/-- Settles O59: the unit's number and the kinds it has decide between a refusal that changes nothing and the mask set;
either way a later report reads the masks then held. -/
theorem faultMaskIsSet : Obligations.FaultMaskIsSet := by
  unfold Obligations.FaultMaskIsSet
  intro p s r u mask h hr kinds
  have run := exec_setFaultEnable h hr
  have kindsOf : unitKinds u = kinds := unitKinds_eq u
  by_cases legal : u < 6 ∧ mask.toNat < 2 ^ kinds
  case pos =>
    obtain ⟨known, fits⟩ := legal
    rw [setFaultEnable_accepted (u := ⟨u, known⟩) r _ (kindsOf ▸ fits)] at run
    have ports (q : Port) : (setMask ⟨u, known⟩ mask (s.without p 0x2B)).port q = s.port q := by
      rw [setMask_port, without_port]
    refine ⟨_, run, by rw [answer_faults]; rfl, by rw [answer_counters]; rfl, fun illegal => by omega,
      fun _ _ => ⟨replied_answer h.live _ _ _ ports, ?masks⟩, sameBlocks_answered (sameBlocks_setMask _ _ _) _ _ _ _,
      fun v k d => faultReported_logFault v k d _⟩
    rw [answer_faults]
    exact ⟨setMask_self _ _ _, fun v hv => setMask_other hv _ _⟩
  case neg =>
    have illegal : 6 ≤ u ∨ 2 ^ kinds ≤ mask.toNat := by omega
    rw [setFaultEnable_refused r _ (kindsOf ▸ illegal)] at run
    obtain ⟨replied, blocks, counters, faults⟩ := answer_atOnce h .range 0 []
    exact ⟨_, run, by rw [faults], counters, fun _ => ⟨replied, faults⟩, fun known fits => absurd ⟨known, fits⟩ legal,
      blocks, fun v k d => faultReported_logFault v k d _⟩

/-! ## READ_COUNTERS (R181) -/

theorem exec_readCounters {s : State} {p : Port} {r : Passed} {g : Nat} {clear : Bool} (h : Waits s p 0x28 r)
    (hr : r.request = .readCounters g clear) :
    exec (.readCounters p) s = .next (readCounters r g clear (s.without p 0x28)) := by
  show execReadCounters p s = _
  unfold execReadCounters
  rw [takePassed_of h.oldest]
  dsimp only
  rw [hr]

/-- The SESSION group, and a number that names no group, have no counters to set to 0. -/
theorem clearGroup_kept {g : Nat} (h : g = 0 ∨ 8 < g) (c : Counters) : clearGroup g c = c := by
  unfold clearGroup
  split
  case h_9 => rfl
  all_goals omega

/-- Group `g` of the counters `c` has been set to 0, giving `c'`. -/
def GroupCleared (g : Nat) (c c' : Counters) : Prop :=
  (g = 1 → c' = { c with intake := IntakeCounters.zero }) ∧
  (g = 2 → c' = { c with trigger := TriggerCounters.zero }) ∧
  (g = 3 → c' = { c with catalog := CatalogCounters.zero }) ∧
  (g = 4 → c' = { c with archive := ArchiveCounters.zero }) ∧
  (g = 5 → c' = { c with holds := HoldCounters.zero }) ∧
  (g = 6 → c' = { c with port0 := PortCounters.zero }) ∧
  (g = 7 → c' = { c with port1 := PortCounters.zero }) ∧
  (g = 8 → c' = { c with memory := MemoryCounters.zero })

theorem groupCleared_clearGroup (g : Nat) (c : Counters) : GroupCleared g c (clearGroup g c) := by
  refine ⟨?_, ?_, ?_, ?_, ?_, ?_, ?_, ?_⟩ <;> (rintro rfl; rfl)

/-- The state whose counters of group `g` have been set to 0 if `clear` asks for it. -/
def clearCounters (g : Nat) (clear : Bool) (s : State) : State :=
  { s with counters := if clear then clearGroup g s.counters else s.counters }

theorem clearCounters_port (g : Nat) (clear : Bool) (s : State) (q : Port) :
    (clearCounters g clear s).port q = s.port q := by cases q <;> rfl

theorem sameBlocks_clearCounters (g : Nat) (clear : Bool) (s : State) : SameBlocks s (clearCounters g clear s) := rfl

theorem clearCounters_kept {g : Nat} {clear : Bool} (h : clear = false ∨ g = 0 ∨ 8 < g) (s : State) :
    clearCounters g clear s = s := by
  unfold clearCounters
  obtain rfl | groupless := h
  · rfl
  · rw [clearGroup_kept groupless, ite_self]

theorem readCounters_known {g : Nat} (hg : g ≤ 8) (r : Passed) (clear : Bool) (s : State) :
    readCounters r g clear s =
      answer r .ok (g + if clear = true ∧ g ≠ 0 then 256 else 0) (groupCounters s g) (clearCounters g clear s) := by
  unfold readCounters
  rw [if_pos hg]
  by_cases cleared : clear = true ∧ g ≠ 0
  · obtain ⟨rfl, nonzero⟩ := cleared
    simp [nonzero, bit, clearCounters]
  · have kept : clear = false ∨ g = 0 ∨ 8 < g := by
      rw [not_and_or, Bool.not_eq_true, not_not] at cleared
      exact cleared.imp_right .inl
    have unclear : (clear && decide (g ≠ 0)) = false := by simpa using cleared
    rw [clearCounters_kept kept, if_neg cleared, unclear]
    rfl

theorem readCounters_unknown {g : Nat} (hg : 8 < g) (r : Passed) (clear : Bool) (s : State) :
    readCounters r g clear s = answer r .range 0 [] (clearCounters g clear s) := by
  rw [clearCounters_kept (.inr (.inr hg))]
  exact if_neg (Nat.not_le.mpr hg)

/-- Whatever its answer, READ_COUNTERS leaves all but the port units and the counters it clears. -/
theorem readCounters_leaves (r : Passed) (g : Nat) (clear : Bool) (s : State) :
    SameBlocks s (readCounters r g clear s) ∧
      (readCounters r g clear s).counters = (clearCounters g clear s).counters ∧
      (readCounters r g clear s).faults = s.faults ∧ (readCounters r g clear s).session = s.session := by
  have answers : ∃ st d pay, readCounters r g clear s = answer r st d pay (clearCounters g clear s) := by
    obtain known | unknown := le_or_gt g 8
    · exact ⟨_, _, _, readCounters_known known r clear s⟩
    · exact ⟨_, _, _, readCounters_unknown unknown r clear s⟩
  obtain ⟨st, d, pay, e⟩ := answers
  rw [e]
  exact ⟨sameBlocks_answered (sameBlocks_clearCounters g clear s) r st d pay, answer_counters _ _ _ _ _,
    answer_faults _ _ _ _ _, answer_session _ _ _ _ _⟩

/-- What READ_COUNTERS answers: the group as it stood, or RANGE. -/
theorem replied_readCounters {s : State} {p : Port} {r : Passed} (h : Waits s p 0x28 r) (g : Nat) (clear : Bool) :
    (g ≤ 8 →
      Replied s (readCounters r g clear (s.without p 0x28)) r .ok (g + if clear = true ∧ g ≠ 0 then 256 else 0)
        (groupCounters s g)) ∧
    (8 < g → Replied s (readCounters r g clear (s.without p 0x28)) r .range 0 []) := by
  have ports (q : Port) : (clearCounters g clear (s.without p 0x28)).port q = s.port q := by
    rw [clearCounters_port, without_port]
  refine ⟨fun known => ?known, fun unknown => ?unknown⟩
  case known => rw [readCounters_known known]; exact replied_answer h.live _ _ _ ports
  case unknown => rw [readCounters_unknown unknown]; exact replied_answer h.live _ _ _ ports

/-! ## CLEAR_FAULTS (R185) -/

theorem exec_clearFaults {s : State} {p : Port} {r : Passed} {units : BitVec 8} (h : Waits s p 0x2A r)
    (hr : r.request = .clearFaults units) :
    exec (.clearFaults p) s = .next (clearFaults r units (s.without p 0x2A)) := by
  show execClearFaults p s = _
  unfold execClearFaults
  rw [takePassed_of h.oldest]
  dsimp only
  rw [hr]

theorem clearRecords_get (units : BitVec 8) (f : Faults) (u : Fin 6) :
    (clearRecords units f).records.get u = if units.getLsbD u.val then FaultRecord.clear else f.records.get u :=
  Vector.getElem_ofFn u.isLt

/-- The state whose records of the named units are clear. -/
def clearNamed (units : BitVec 8) (s : State) : State := { s with faults := clearRecords units s.faults }

theorem clearNamed_port (units : BitVec 8) (s : State) (q : Port) : (clearNamed units s).port q = s.port q := by
  cases q <;> rfl

theorem sameBlocks_clearNamed (units : BitVec 8) (s : State) : SameBlocks s (clearNamed units s) := rfl

theorem clearFaults_named {units : BitVec 8} (h : units.toNat < 64) (r : Passed) (s : State) :
    clearFaults r units s =
      answer r .ok 0
        (recordFields (fun u => if units.getLsbD u.val then s.faults.records.get u else FaultRecord.clear))
        (clearNamed units s) := if_pos h

theorem clearFaults_refused {units : BitVec 8} (h : 64 ≤ units.toNat) (r : Passed) (s : State) :
    clearFaults r units s = answer r .range 0 [] s := if_neg (Nat.not_lt.mpr h)

/-- Settles O58: READ_COUNTERS clears the counters of the group it names, CLEAR_FAULTS the records of the units it
names, and each is one answer with what stood before. -/
theorem countersAndFaultsAreCleared : Obligations.CountersAndFaultsAreCleared := by
  unfold Obligations.CountersAndFaultsAreCleared
  refine fun p s r => ⟨fun h g clear hr => ?counters, fun h units hr => ?faults⟩
  case counters =>
    obtain ⟨known, unknown⟩ := replied_readCounters h g clear
    obtain ⟨blocks, counters, faults, session⟩ := readCounters_leaves r g clear (s.without p 0x28)
    refine ⟨_, exec_readCounters h hr, session, faults, known, unknown, fun kept => ?kept,
      fun asked => ?cleared, blocks⟩
    case kept => rw [counters, clearCounters_kept kept]; rfl
    case cleared =>
      subst asked
      rw [counters]
      exact groupCleared_clearGroup g s.counters
  case faults =>
    have run := exec_clearFaults h hr
    obtain named | bad := Nat.lt_or_ge units.toNat 64
    · rw [clearFaults_named named] at run
      have ports (q : Port) : (clearNamed units (s.without p 0x2A)).port q = s.port q := by
        rw [clearNamed_port, without_port]
      refine ⟨_, run, by rw [answer_faults]; rfl, by rw [answer_counters]; rfl,
        fun _ => ⟨replied_answer h.live _ _ _ ports, fun u => ?_⟩, fun bad => absurd named (Nat.not_lt.mpr bad),
        sameBlocks_answered (sameBlocks_clearNamed _ _) _ _ _ _⟩
      rw [answer_faults]
      exact clearRecords_get units s.faults u
    · rw [clearFaults_refused bad] at run
      obtain ⟨replied, blocks, counters, faults⟩ := answer_atOnce h .range 0 []
      exact ⟨_, run, by rw [faults], counters, fun named => absurd named (Nat.not_lt.mpr bad),
        fun _ => ⟨replied, faults⟩, blocks⟩

end Sys2Proof.Proofs
end

section
/-! PROOF. The step of the machine on a queue that holds a command. -/

namespace Sys2Proof.Proofs

open Sys2Proof.Machine

/-- Settles O1, along the two cases of the queue: an empty queue, where a tick would pass instead, is not this one, and
in the other the front and the rest are the ones named. -/
theorem stepRunsFrontCommand : Obligations.StepRunsFrontCommand := by
  unfold Obligations.StepRunsFrontCommand
  intro c rest s front
  unfold step
  split
  next empty => exact absurd (empty.symm.trans front) (List.cons_ne_nil c rest).symm
  next c' rest' queue =>
    obtain ⟨rfl, rfl⟩ := List.cons.inj (queue.symm.trans front)
    rfl

end Sys2Proof.Proofs
end
